-- ==== Sys2Proof/Config.lean ====
section
/-! DEFINITION. The configuration of an instance of the core: the three parameters the spec leaves OPEN
(00_scope.md R7, R8, R9; 10_state.md R35), and, as opaque constants without a value, those of the instance that
`State.reset` describes. -/

namespace Sys2Proof

/-- How the two conversions evaluate the source's formulas (00_scope.md R8). -/
inductive NumericMode
  | exact
  | binary64
  deriving DecidableEq, Repr, Inhabited

/-- The parameters of one instance (00_scope.md R7 to R9). They are configuration: every step keeps them. -/
structure Config where
  /-- AMP_HIGH: the high tone sample. -/
  ampHigh : Nat
  /-- NUMERIC_MODE. -/
  numericMode : NumericMode
  /-- MAX_SEGMENTS: the capacity of the segment store. -/
  maxSegments : Nat
  deriving DecidableEq, Repr

/-- The constraints the spec puts on the parameters: `1 <= AMP_HIGH <= 32766` (R7), `MAX_SEGMENTS >= 1` (R9). -/
abbrev Config.WF (c : Config) : Prop :=
  1 ≤ c.ampHigh ∧ c.ampHigh ≤ 32766 ∧ 1 ≤ c.maxSegments

/-- Free value: which AMP_HIGH the installed instance has (log entry 1). -/
opaque Config.freeAmpHigh : Nat

/-- Free value: which NUMERIC_MODE the installed instance has (log entry 1). -/
opaque Config.freeNumericMode : NumericMode

/-- Free value: which MAX_SEGMENTS the installed instance has (log entry 1). -/
opaque Config.freeMaxSegments : Nat

/-- The instance that `State.reset` describes: any parameters R7 to R9 allow, and no proof can see which. -/
def Config.installed : Config where
  ampHigh := 1 + Config.freeAmpHigh % 32766
  numericMode := Config.freeNumericMode
  maxSegments := 1 + Config.freeMaxSegments

theorem Config.installed_wf : Config.installed.WF := by
  unfold Config.WF Config.installed
  refine ⟨?_, ?_, ?_⟩ <;> simp only <;> omega

end Sys2Proof
end

