-- ==== Sys2Proof/Word.lean ====
section
/-! DEFINITION. The word types of the audioview tone core (00_scope.md R11): bit vectors where the spec has words,
samples, bytes and segment entries. -/

namespace Sys2Proof

/-- One byte of the output stream or of the command transport (20_memory.md R52, 30_encoding.md R75). -/
abbrev Byte := BitVec 8

/-- One s16 sample, as its two's complement bits (10_state.md R29, 42_encoder.md R185). -/
abbrev Sample := BitVec 16

/-- One command word W0, W1 or W2 (30_encoding.md R70). -/
abbrev Word64 := BitVec 64

/-- One entry of the segment store (20_memory.md R50, 30_encoding.md R80). -/
abbrev Entry := BitVec 128

end Sys2Proof
end

