-- ==== Sys2Proof/Syntax.lean ====
section
/-! DEFINITION. The instruction syntax: one constructor per row of spec/opcode_table.json. Five host commands
(30_encoding.md R84) and the two segment operations the synthesizer selects from a segment entry (R81). -/

namespace Sys2Proof

/-- The instructions. Operands are kept as the words that carry them; 40_builder.md's conversions read them. -/
inductive Instr
  /-- NEW h: construct the Builder (40_builder.md R103). -/
  | new (handle : Word64)
  /-- ADD_TONE d, ms: d is s64, ms binary64 (R104). -/
  | addTone (divisor durationMs : Word64)
  /-- ADD_TONE_FREQ f, ms: both binary64 (R105). -/
  | addToneFreq (freqHz durationMs : Word64)
  /-- ADD_SILENCE ms: binary64 (R106). -/
  | addSilence (durationMs : Word64)
  /-- WRITE (42_encoder.md R180). -/
  | write
  /-- SEG_SILENCE: LENGTH u32 (41_synthesizer.md R141). -/
  | segSilence (length : BitVec 32)
  /-- SEG_TONE: DIVISOR and LENGTH (41_synthesizer.md R147). -/
  | segTone (divisor : Word64) (length : BitVec 32)
  deriving DecidableEq, Repr

end Sys2Proof
end

