-- ==== Sys2Proof/WellFormed.lean ====
section
/-! DEFINITION. Which instructions the encodings of the spec can hold (30_encoding.md R72, R80, R82). -/

namespace Sys2Proof

/-- A Tone entry holds a divisor in 1..DIV_MAX = 2^63 - 1 (30_encoding.md R80, R82; 00_scope.md R10). -/
def Instr.toneDivisorOk (d : Word64) : Bool := decide (1 ≤ d.toNat) && decide (d.toNat ≤ 2 ^ 63 - 1)

/-- Well-formed: every operand word of a command is a legal operand (R73, the conversions are total on words), a
LENGTH of 32 bits is at most LEN_MAX by its width, and a Tone's divisor is in range. -/
def Instr.wellFormed : Instr → Bool
  | .new _ => true
  | .addTone _ _ => true
  | .addToneFreq _ _ => true
  | .addSilence _ => true
  | .write => true
  | .segSilence _ => true
  | .segTone d _ => Instr.toneDivisorOk d

end Sys2Proof
end

