-- ==== Sys2Proof/Decode.lean ====
section
/-! DEFINITION. Decoding of commands (40_builder.md R100, 30_encoding.md R70 to R87), of segment entries (R80, R81)
and of the byte transport (R75), rejecting by name; then the encoders, from the same tables. -/

namespace Sys2Proof

/-- Why a command does not decode (30_encoding.md R85, each an ILLEGAL_COMMAND), or why bytes are no command. -/
inductive DecodeError
  /-- OPCODE is 0x00 or in 0x06..0xFF. -/
  | illegalOpcode
  /-- RSV0, W0[63:8], is not 0. -/
  | reservedNotZero
  /-- An operand word that R72 marks unused is not 0 (R74). -/
  | unusedOperandNotZero
  /-- Fewer than the 24 bytes of a command on the byte transport (R75). -/
  | tooFewBytes
  deriving DecidableEq, Repr

/-- The three words of a command, presented as one unit (30_encoding.md R70). -/
structure Command where
  w0 : Word64
  w1 : Word64
  w2 : Word64
  deriving DecidableEq, Repr

/-- OPCODE = W0[7:0] (30_encoding.md R71). -/
def Command.opcode (c : Command) : BitVec 8 := c.w0.extractLsb' 0 8

/-- RSV0 = W0[63:8] (30_encoding.md R71). -/
def Command.reserved (c : Command) : BitVec 56 := c.w0.extractLsb' 8 56

/-- An operand marked "unused, must be 0" (30_encoding.md R74). -/
def unusedOperand (w : Word64) (i : Instr) : Except DecodeError Instr :=
  if w = 0#64 then .ok i else .error .unusedOperandNotZero

/-- The decoder of commands, total on every triple of words (30_encoding.md R71, R72, R84, R85, R87). -/
def decodeCommand (c : Command) : Except DecodeError Instr :=
  if c.reserved = 0#56 then
    if c.opcode = 0x01#8 then unusedOperand c.w2 (.new c.w1)
    else if c.opcode = 0x02#8 then .ok (.addTone c.w1 c.w2)
    else if c.opcode = 0x03#8 then .ok (.addToneFreq c.w1 c.w2)
    else if c.opcode = 0x04#8 then unusedOperand c.w1 (.addSilence c.w2)
    else if c.opcode = 0x05#8 then
      if c.w1 = 0#64 then unusedOperand c.w2 .write else .error .unusedOperandNotZero
    else .error .illegalOpcode
  else .error .reservedNotZero

/-! ### Segment entries -/

/-- KIND, bit 0: true for TONE (30_encoding.md R80). -/
def entryKind (e : Entry) : Bool := e.getLsbD 0

/-- RSV, bits 31:1 (30_encoding.md R80). -/
def entryReserved (e : Entry) : BitVec 31 := e.extractLsb' 1 31

/-- LENGTH, bits 63:32 (30_encoding.md R80). -/
def entryLength (e : Entry) : BitVec 32 := e.extractLsb' 32 32

/-- DIVISOR, bits 127:64 (30_encoding.md R80). -/
def entryDivisor (e : Entry) : Word64 := e.extractLsb' 64 64

/-- The segment operation of an entry, selected by KIND alone (30_encoding.md R81); RSV is never read
(93_implementation_defined.md I9). Total: R82 needs no illegal case. -/
def decodeEntry (e : Entry) : Instr :=
  if entryKind e then .segTone (entryDivisor e) (entryLength e) else .segSilence (entryLength e)

/-- The invariant of every entry of the segment list (30_encoding.md R82). -/
def entryWf (e : Entry) : Bool :=
  entryReserved e == 0#31 &&
    (if entryKind e then Instr.toneDivisorOk (entryDivisor e) else entryDivisor e == 0#64)

/-- The entry value `zext_128(DIVISOR) << 64 | zext_128(LENGTH) << 32 | KIND` (30_encoding.md R80). -/
def entryWord (kind : Bool) (divisor : Word64) (length : BitVec 32) : Entry :=
  (divisor.setWidth 128 <<< 64) ||| (length.setWidth 128 <<< 32) ||| (if kind then 1#128 else 0#128)

/-! ### What an instruction is encoded as, and back -/

/-- Where an instruction's bits stand: a host command of three words, or an entry of the segment store. -/
inductive Encoded
  | command (c : Command)
  | entry (e : Entry)
  deriving DecidableEq, Repr

/-- The decoder on either form. -/
def decode : Encoded → Except DecodeError Instr
  | .command c => decodeCommand c
  | .entry e => .ok (decodeEntry e)

/-- The encoder, from 30_encoding.md R72, R84 (commands) and R80 (entries). -/
def encode : Instr → Encoded
  | .new h => .command ⟨0x01#64, h, 0#64⟩
  | .addTone d ms => .command ⟨0x02#64, d, ms⟩
  | .addToneFreq f ms => .command ⟨0x03#64, f, ms⟩
  | .addSilence ms => .command ⟨0x04#64, 0#64, ms⟩
  | .write => .command ⟨0x05#64, 0#64, 0#64⟩
  | .segSilence len => .entry (entryWord false 0#64 len)
  | .segTone d len => .entry (entryWord true d len)

/-! ### The byte transport of commands (30_encoding.md R75) -/

/-- A 64-bit word as 8 bytes, least significant first (30_encoding.md R75). -/
def wordBytes (w : Word64) : List Byte :=
  [w.extractLsb' 0 8, w.extractLsb' 8 8, w.extractLsb' 16 8, w.extractLsb' 24 8,
   w.extractLsb' 32 8, w.extractLsb' 40 8, w.extractLsb' 48 8, w.extractLsb' 56 8]

/-- The word that 8 bytes carry, least significant first. -/
def wordOfBytes (b0 b1 b2 b3 b4 b5 b6 b7 : Byte) : Word64 := b7 ++ b6 ++ b5 ++ b4 ++ b3 ++ b2 ++ b1 ++ b0

/-- Takes one little-endian word off a list of bytes. -/
def takeWord : List Byte → Except DecodeError (Word64 × List Byte)
  | b0 :: b1 :: b2 :: b3 :: b4 :: b5 :: b6 :: b7 :: rest => .ok (wordOfBytes b0 b1 b2 b3 b4 b5 b6 b7, rest)
  | _ => .error .tooFewBytes

/-- A command as the 24 bytes of the transport: W0, W1, W2, each little-endian (30_encoding.md R75). -/
def commandBytes (c : Command) : List Byte := wordBytes c.w0 ++ wordBytes c.w1 ++ wordBytes c.w2

/-- Takes one command off a list of bytes (30_encoding.md R75), answering the rest of the list. -/
def takeCommand (bs : List Byte) : Except DecodeError (Command × List Byte) :=
  match takeWord bs with
  | .error x => .error x
  | .ok (w0, bs1) =>
    match takeWord bs1 with
    | .error x => .error x
    | .ok (w1, bs2) =>
      match takeWord bs2 with
      | .error x => .error x
      | .ok (w2, bs3) => .ok (⟨w0, w1, w2⟩, bs3)

/-- The decoder on bytes, total on every list: the instruction of the first 24 bytes and the bytes after them. -/
def decodeBytes (bs : List Byte) : Except DecodeError (Instr × List Byte) :=
  match takeCommand bs with
  | .error x => .error x
  | .ok (c, rest) =>
    match decodeCommand c with
    | .error x => .error x
    | .ok i => .ok (i, rest)

/-! ### The opcode table's numbering -/

/-- Whether a table row of `nbits` bits is a segment entry (128 bits, its match and mask inside the low word bits) and
not a command (W0 alone is 64 bits, all three words 192): log entry 9. -/
def tableRowIsEntry (nbits : Nat) : Bool := decide (nbits < 64) || decide (nbits = 128)

/-- The command whose words are the bits of `w`: W0 is bits 63:0, W1 bits 127:64, W2 bits 191:128. -/
def tableCommand (w : Nat) : Command :=
  ⟨BitVec.ofNat 64 w, BitVec.ofNat 64 (w >>> 64), BitVec.ofNat 64 (w >>> 128)⟩

/-- What this decoder reads from the bits of a table row, every bit from `nbits` up being 0. -/
def decodeTableWord (nbits w : Nat) : Option Instr :=
  if tableRowIsEntry nbits then some (decodeEntry (BitVec.ofNat 128 (w % 2 ^ nbits)))
  else (decodeCommand (tableCommand (w % 2 ^ nbits))).toOption

end Sys2Proof
end

