-- ==== Sys2Proof/Machine/State.lean ====
section
/-! DEFINITION. The state of the core (10_state.md R20), the host's side of the interface (R32, R33), the reasons a
step can stop, and the state after reset (70_reset_and_hazards.md R250). Plain data throughout. -/

namespace Sys2Proof.Machine

/-- PHASE, the source's lastCycle (10_state.md R26). The type has the three values the core produces
(93_implementation_defined.md I10); their 2-bit encoding is `Phase.code`. -/
inductive Phase
  | neutral
  | plus
  | minus
  deriving DecidableEq, Repr

/-- STATUS: exactly these values (60_exceptions.md R220); their codes are `Status.code`. -/
inductive Status
  | ok
  | invalidDestination
  | ioError
  | invalidParameter
  | notConfigured
  | sizeOverflow
  | capacityExceeded
  | illegalCommand
  deriving DecidableEq, Repr

/-- The host's answer to `SinkReplace` (00_scope.md R12). After `fail` the destination holds any byte sequence the
host's storage happens to hold (42_encoder.md R188): `content`. -/
inductive SinkAnswer
  | ok
  | fail (content : List Byte)
  deriving DecidableEq, Repr

/-- The host's answers for one command: free inputs of the step, draws (10_state.md R33). -/
structure Answers where
  destExists : Bool
  sinkReplace : SinkAnswer
  deriving DecidableEq, Repr

/-- A command as the host issues it (30_encoding.md R70), with the answers the host will give while it runs.
`overlaps` says that the host issued it before it had the status of the command before
(70_reset_and_hazards.md R253): such a command is refused. -/
structure Request where
  command : Command
  answers : Answers
  overlaps : Bool
  deriving DecidableEq, Repr

/-- What the host can do to the core: issue a command, or apply reset between commands
(70_reset_and_hazards.md R251). -/
inductive HostInput
  | command (r : Request)
  | reset
  deriving DecidableEq, Repr

/-- What passes between core and host (10_state.md R32, 40_builder.md R103). -/
inductive Event
  /-- The core asked `DestExists(h)` and the host gave this answer. -/
  | destExists (h : Word64) (answer : Bool)
  /-- The core handed these bytes to `SinkReplace(h, bytes)` and the host gave this answer. -/
  | sinkReplace (h : Word64) (bytes : List Byte) (answer : SinkAnswer)
  /-- The core emitted the PHASE_TRACE of a WRITE. -/
  | phaseTrace (t : List Phase)
  /-- The core returned a command's status. -/
  | status (st : Status)
  deriving DecidableEq, Repr

/-- A sparse store: indices strictly rising, each with its value. An index that is not listed reads as nothing. -/
abbrev Memory (α : Type) := List (Nat × α)

/-- The machine. -/
structure State where
  /-- AMP_HIGH, NUMERIC_MODE and MAX_SEGMENTS (10_state.md R35): every step keeps them. -/
  cfg : Config
  /-- CONFIGURED (R23). -/
  configured : Bool
  /-- DEST (R24). -/
  dest : Word64
  /-- SEG_COUNT (R25). -/
  segCount : Nat
  /-- SEG, the segment store (20_memory.md R50). -/
  seg : Memory Entry
  /-- PHASE (R26). -/
  phase : Phase
  /-- STATUS (R27). -/
  status : Status
  /-- SEG_IDX (R28): present exactly while a WRITE runs its synthesis pass. -/
  segIdx : Option Nat
  /-- SAMPLES (R29): empty outside WRITE. -/
  samples : List Sample
  /-- TMP (R30): empty outside a tone segment. -/
  tmp : List Sample
  /-- PHASE_TRACE as it grows during a WRITE (R31, 41_synthesizer.md R140): empty outside WRITE. -/
  trace : List Phase
  /-- The model's own: the host's answers for the command in execution. -/
  answers : Answers
  /-- The model's own: the host's inputs in the order it issues them (20_memory.md R62). -/
  inbox : List HostInput
  /-- The host's: the content of each destination the core has delivered to, by handle (10_state.md R33). -/
  sinks : Memory (List Byte)
  /-- The model's own: what has passed between core and host, oldest first. -/
  log : List Event
  deriving DecidableEq, Repr

/-- The state right after reset of an instance with parameters `c` (70_reset_and_hazards.md R250), with the host having
issued nothing. DEST (log entry 2), `answers` (log entry 6) and the model's own empty lists are DESIGN CHOICE. -/
def State.resetOf (c : Config) : State where
  cfg := c
  configured := false
  dest := 0#64
  segCount := 0
  seg := []
  phase := .neutral
  status := .ok
  segIdx := none
  samples := []
  tmp := []
  trace := []
  answers := ⟨false, .fail []⟩
  inbox := []
  sinks := []
  log := []

/-- The state right after reset, of the installed instance, whose parameters the spec leaves open (log entry 1). -/
def State.reset : State := State.resetOf Config.installed

/-- Why the machine stops. None is reachable from reset (`Safety.lean`). -/
inductive Fault
  /-- `SegRead` of an index nothing has written, raised by WRITE's size check and by the synthesis pass. The spec never
  reads there (20_memory.md R50). Safe: the model stops. -/
  | segmentAbsent
  /-- `SegWrite` at an index that the store does not have, raised by an append when SEG_COUNT exceeds MAX_SEGMENTS
  (20_memory.md R50). Safe: the model stops. -/
  | segmentOutOfStore
  /-- A Tone of divisor 0 with samples to emit, raised by SEG_TONE: the division of 41_synthesizer.md R142 is by zero,
  which R155 calls a defect to guard against. Safe: the model stops. -/
  | zeroDivisor
  deriving DecidableEq, Repr

/-- Why the machine gives no meaning. -/
inductive Refusal
  /-- No meaning yet, rejected in `exec`'s arm. Safe. No arm of this model uses it. -/
  | notModelled (mnemonic : String)
  /-- A command that overlaps another in time, raised by `step` on such a request and by every command's meaning in
  a state that is inside a WRITE: 70_reset_and_hazards.md R253 says a model must refuse it. Safe. -/
  | overlappingCommand
  deriving DecidableEq, Repr

/-- What a meaning answers. -/
abbrev Result := Host.Outcome State Fault Refusal

end Sys2Proof.Machine
end

