-- ==== Sys2Proof/Machine/Ops.lean ====
section
/-! DEFINITION. The shared operations: the sparse store, the ways a command ends (00_scope.md R12: `raise E` and
`return OK`), the primitives of the segment store and of the host, reset, and sequencing. -/

namespace Sys2Proof.Machine

/-! ### The sparse store -/

/-- The value at an index, if one is listed. -/
def Memory.get {α : Type} : Memory α → Nat → Option α
  | [], _ => none
  | (k, v) :: rest, i => if i = k then some v else Memory.get rest i

/-- The store with one index set, in canonical form when it was. -/
def Memory.set {α : Type} : Memory α → Nat → α → Memory α
  | [], i, x => [(i, x)]
  | (k, v) :: rest, i, x =>
    if i < k then (i, x) :: (k, v) :: rest
    else if i = k then (i, x) :: rest
    else (k, v) :: Memory.set rest i x

/-- The canonical form: every listed index is above the one before it. -/
def Memory.wf {α : Type} : Memory α → Bool
  | [] => true
  | [_] => true
  | (k, _) :: (k', v') :: rest => decide (k < k') && Memory.wf ((k', v') :: rest)

/-! ### Sequencing -/

/-- Go on from a next state; a stop stays a stop. -/
def andThen (r : Result) (f : State → Result) : Result :=
  match r with
  | .next s => f s
  | .fault x => .fault x
  | .refused x => .refused x

/-! ### How a command ends

The core has no trap entry and no trap return (60_exceptions.md R231): an error is a status and nothing else is saved
or transferred. `raise` is the one operation every error of every command goes through; `returnOk` is the one way a
command succeeds. -/

/-- The last action of every command: STATUS is written once and the host receives it (10_state.md R27). -/
def respond (st : Status) (s : State) : State :=
  { s with status := st, log := s.log ++ [.status st] }

/-- `raise E`: the command ends with STATUS `<- E`. What else it changed, its rule has already written
(00_scope.md R12, 60_exceptions.md R229). -/
def raise (st : Status) (s : State) : Result := .next (respond st s)

/-- `return OK` (00_scope.md R12). -/
def returnOk (s : State) : Result := .next (respond .ok s)

/-! ### Checks before a command's own rule -/

/-- One command at a time: a command that meets a WRITE still running is refused (70_reset_and_hazards.md R253). -/
def whenIdle (s : State) (k : Result) : Result :=
  match s.segIdx with
  | none => k
  | some _ => .refused .overlappingCommand

/-- Every command but NEW needs a Builder (40_builder.md R100, 60_exceptions.md R224). -/
def whenConfigured (s : State) (k : Result) : Result :=
  if s.configured then k else raise .notConfigured s

/-! ### The segment store -/

/-- `SegRead(i)` (00_scope.md R12); an index nothing has written has no value. -/
def segRead (s : State) (i : Nat) : Option Entry := s.seg.get i

/-- `SegWrite(i, e)` (00_scope.md R12), indices 0..MAX_SEGMENTS-1 (20_memory.md R50). -/
def segWrite (i : Nat) (e : Entry) (s : State) : Result :=
  if i < s.cfg.maxSegments then .next { s with seg := s.seg.set i e } else .fault .segmentOutOfStore

/-! ### The host's primitives -/

/-- `DestExists(h)`: one query; the answer is the draw `s.answers.destExists` (00_scope.md R12). -/
def askDestExists (h : Word64) (s : State) : State :=
  { s with log := s.log ++ [.destExists h s.answers.destExists] }

/-- What a destination holds after `SinkReplace(h, bytes)`: exactly `bytes` on `ok`, any content on `fail`
(20_memory.md R59, 42_encoder.md R188). -/
def sinkContent (a : SinkAnswer) (bytes : List Byte) : List Byte :=
  match a with
  | .ok => bytes
  | .fail content => content

/-- `SinkReplace(h, bytes)`: one call with the whole stream; the answer is the draw `s.answers.sinkReplace`
(42_encoder.md R187). DESIGN CHOICE: two handles name two destinations, so the call changes the content of `h` alone
(log entry 23). -/
def callSinkReplace (h : Word64) (bytes : List Byte) (s : State) : State :=
  { s with
    sinks := s.sinks.set h.toNat (sinkContent s.answers.sinkReplace bytes)
    log := s.log ++ [.sinkReplace h bytes s.answers.sinkReplace] }

/-- `emit PHASE_TRACE` (42_encoder.md R180, 41_synthesizer.md R152). -/
def emitTrace (s : State) : State := { s with log := s.log ++ [.phaseTrace s.trace] }

/-! ### Reset -/

/-- Reset between commands (70_reset_and_hazards.md R250, R251): every element of the core at its reset value, the
parameters kept, the host's own things (what it will issue, its destinations, what it has seen) untouched. -/
def applyReset (s : State) : State :=
  { State.resetOf s.cfg with inbox := s.inbox, sinks := s.sinks, log := s.log }

end Sys2Proof.Machine
end

