-- ==== Sys2Proof/Machine/Operands.lean ====
section
/-! DEFINITION. The operand forms: signed words (00_scope.md R11), binary64 data (30_encoding.md R76, R77), the rounding
`RNE64` (00_scope.md R12), and the two conversions of 40_builder.md R101 and R102 in both numeric modes. All arithmetic is
on natural numbers and exact fractions of them. -/

namespace Sys2Proof.Machine

/-! ### Fixed limits -/

/-- LEN_MAX (00_scope.md R10). -/
def lenMax : Nat := 2 ^ 32 - 1

/-- DIV_MAX (00_scope.md R10). -/
def divMax : Nat := 2 ^ 63 - 1

/-- HALF_RATE, the numerator of the frequency conversion (00_scope.md R6). -/
def halfRate : Nat := 48000

/-- RATE, samples per second (00_scope.md R6). -/
def sampleRate : Nat := 96000

/-- MS_PER_SECOND (00_scope.md R6). -/
def msPerSecond : Nat := 1000

/-! ### Signed words -/

/-- `sval64(w)`: the word read as two's complement (00_scope.md R11). -/
def sval64 (w : Word64) : Int := if w.getLsbD 63 then (w.toNat : Int) - 2 ^ 64 else w.toNat

/-! ### binary64 data -/

/-- A binary64 datum (30_encoding.md R76): NaN, an infinity, or the exact value `(-1)^neg * mant * 2^exp`. -/
inductive Datum
  | nan
  | infinity (neg : Bool)
  | finite (neg : Bool) (mant : Nat) (exp : Int)
  deriving DecidableEq, Repr

/-- The sign bit, w[63]. -/
def b64sign (w : Word64) : Bool := w.getLsbD 63

/-- The biased exponent, w[62:52]. -/
def b64exponent (w : Word64) : Nat := (w.extractLsb' 52 11).toNat

/-- The fraction, w[51:0]. -/
def b64fraction (w : Word64) : Nat := (w.extractLsb' 0 52).toNat

/-- `b64val(w)` (30_encoding.md R76). A normal datum `(1 + f/2^52) * 2^(e-1023)` is `(2^52 + f) * 2^(e-1075)`, a
subnormal `(f/2^52) * 2^-1022` is `f * 2^-1074`. -/
def b64val (w : Word64) : Datum :=
  if b64exponent w = 2047 then
    if b64fraction w = 0 then .infinity (b64sign w) else .nan
  else if b64exponent w = 0 then .finite (b64sign w) (b64fraction w) (-1074)
  else .finite (b64sign w) (2 ^ 52 + b64fraction w) ((b64exponent w : Int) - 1075)

/-- The six classes of the validity checks (30_encoding.md R77). `-0` is a zero. -/
inductive OperandClass
  | nan
  | plusInfinity
  | minusInfinity
  | negative
  | zero
  | positive
  deriving DecidableEq, Repr

/-- The class of a datum, decided on the exact value (30_encoding.md R77). -/
def Datum.operandClass : Datum → OperandClass
  | .nan => .nan
  | .infinity false => .plusInfinity
  | .infinity true => .minusInfinity
  | .finite neg mant _ => if mant = 0 then .zero else if neg then .negative else .positive

/-! ### Exact fractions -/

/-- A non-negative fraction `num / den`, with `den` at least 1. -/
structure Frac where
  num : Nat
  den : Nat
  deriving DecidableEq, Repr

/-- `mant * 2^exp` as a fraction. -/
def scaled (mant : Nat) (exp : Int) : Frac :=
  match exp with
  | .ofNat e => ⟨mant <<< e, 1⟩
  | .negSucc e => ⟨mant, 1 <<< (e + 1)⟩

/-- The fraction times a natural number. -/
def Frac.times (x : Frac) (n : Nat) : Frac := ⟨x.num * n, x.den⟩

/-- The fraction divided by a positive natural number. -/
def Frac.over (x : Frac) (n : Nat) : Frac := ⟨x.num, x.den * n⟩

/-- A natural number divided by a positive fraction. -/
def Frac.under (n : Nat) (x : Frac) : Frac := ⟨n * x.den, x.num⟩

/-- `floor` (00_scope.md R11). -/
def Frac.floor (x : Frac) : Nat := x.num / x.den

/-! ### Rounding to binary64 -/

/-- `floor(log2 x)` of a positive fraction. -/
def Frac.log2 (x : Frac) : Int :=
  let k : Int := (Nat.log2 x.num : Int) - (Nat.log2 x.den : Int)
  match k with
  | .ofNat n => if x.den <<< n ≤ x.num then k else k - 1
  | .negSucc n => if x.den ≤ x.num <<< (n + 1) then k else k - 1

/-- The exponent of the unit in the last place of the binary64 numbers around a positive fraction: 52 below its
logarithm, and never below that of the subnormals. -/
def ulpExponent (x : Frac) : Int := max (x.log2 - 52) (-1074)

/-- The fraction `x / 2^e`. -/
def Frac.inUnits (x : Frac) (e : Int) : Frac :=
  match e with
  | .ofNat n => ⟨x.num, x.den <<< n⟩
  | .negSucc n => ⟨x.num <<< (n + 1), x.den⟩

/-- The nearest integer to a fraction, ties to even. -/
def Frac.roundEven (x : Frac) : Nat :=
  let q := x.num / x.den
  let r := x.num % x.den
  if 2 * r < x.den then q
  else if x.den < 2 * r then q + 1
  else if q % 2 = 0 then q else q + 1

/-- A mantissa that rounding carried up to `2^53` is the next power of two; a mantissa past the largest exponent is an
infinity (00_scope.md R12: "+infinity when x exceeds the binary64 range"). -/
def normalDatum (neg : Bool) (mant : Nat) (exp : Int) : Datum :=
  let m := if mant = 2 ^ 53 then 2 ^ 52 else mant
  let e := if mant = 2 ^ 53 then exp + 1 else exp
  if 971 < e then .infinity neg else .finite neg m e

/-- `RNE64` of `(-1)^neg * x` (00_scope.md R12): round to nearest, ties to even. The sign of a zero and of an overflow is
`neg`; the core rounds no negative number, only the assembler does (log entry 8). -/
def rneSigned (neg : Bool) (x : Frac) : Datum :=
  if x.num = 0 then .finite neg 0 (-1074)
  else normalDatum neg (x.inUnits (ulpExponent x)).roundEven (ulpExponent x)

/-- `RNE64(x)` of a non-negative fraction. -/
def rne64 (x : Frac) : Datum := rneSigned false x

/-- The bit pattern of a datum that `b64val` or `RNE64` gives. NaN gets the quiet pattern of 95_test_vectors.md 2.1. -/
def b64bits : Datum → Word64
  | .nan => 0x7FF8000000000000#64
  | .infinity neg => (if neg then 1#1 else 0#1) ++ 2047#11 ++ 0#52
  | .finite neg mant exp =>
    (if neg then 1#1 else 0#1) ++
      (if mant < 2 ^ 52 then 0#11 else BitVec.ofInt 11 (exp + 1075)) ++ BitVec.ofNat 52 (mant % 2 ^ 52)

/-! ### The conversions -/

/-- `floor` of a datum that a rounding gave, or nothing for an infinity. -/
def floorFinite : Datum → Option Nat
  | .finite false mant exp => some (scaled mant exp).floor
  | _ => none

/-- `RNE64(x * n)` of a datum, as the next operation of a binary64 evaluation; an infinity stays one. -/
def timesRounded (d : Datum) (n : Nat) : Datum :=
  match d with
  | .finite false mant exp => rne64 ((scaled mant exp).times n)
  | other => other

/-- A length if it is at most LEN_MAX (40_builder.md R101). -/
def lengthInRange (n : Nat) : Option Nat := if n ≤ lenMax then some n else none

/-- A divisor if it is in 1..DIV_MAX (40_builder.md R102). -/
def divisorInRange (n : Nat) : Option Nat := if 1 ≤ n ∧ n ≤ divMax then some n else none

/-- The length of a non-negative finite duration before the LEN_MAX check (40_builder.md R101). -/
def durationSamples (mode : NumericMode) (v : Frac) : Option Nat :=
  match mode with
  | .exact => some (v.times (sampleRate / msPerSecond)).floor
  | .binary64 => floorFinite (timesRounded (rne64 (v.over msPerSecond)) sampleRate)

/-- `msToSamples(B)`, nothing for INVALID (40_builder.md R101). -/
def msToSamples (mode : NumericMode) (b : Word64) : Option Nat :=
  match b64val b with
  | .nan => none
  | .infinity _ => none
  | .finite neg mant exp =>
    if neg ∧ mant ≠ 0 then none else (durationSamples mode (scaled mant exp)).bind lengthInRange

/-- The divisor of a positive finite frequency before the range check (40_builder.md R102). -/
def frequencyDivisor (mode : NumericMode) (v : Frac) : Option Nat :=
  match mode with
  | .exact => some (Frac.under halfRate v).floor
  | .binary64 => floorFinite (rne64 (Frac.under halfRate v))

/-- `freqToDivisor(A)`, nothing for INVALID (40_builder.md R102). -/
def freqToDivisor (mode : NumericMode) (a : Word64) : Option Nat :=
  match b64val a with
  | .nan => none
  | .infinity _ => none
  | .finite neg mant exp =>
    if neg ∨ mant = 0 then none else (frequencyDivisor mode (scaled mant exp)).bind divisorInRange

end Sys2Proof.Machine
end

