-- ==== Sys2Proof/Machine/Builder.lean ====
section
/-! DEFINITION. The Segment List Builder's commands: NEW, ADD_TONE, ADD_TONE_FREQ and ADD_SILENCE (40_builder.md), after
the decode step's checks (R100) in the priority of 60_exceptions.md R228. -/

namespace Sys2Proof.Machine

/-- The start of NEW: the list is emptied and CONFIGURED cleared before the query (40_builder.md R103). -/
def discardBuilder (s : State) : State := { s with segCount := 0, configured := false }

/-- The end of a NEW that the host answers true (40_builder.md R103). -/
def adoptDestination (h : Word64) (s : State) : State := { s with dest := h, configured := true }

/-- NEW(h) (40_builder.md R103, 60_exceptions.md R221). -/
def execNew (h : Word64) (s : State) : Result :=
  whenIdle s <|
    if s.answers.destExists then returnOk (adoptDestination h (askDestExists h (discardBuilder s)))
    else raise .invalidDestination (askDestExists h (discardBuilder s))

/-- SEG_COUNT `<-` SEG_COUNT + 1 (40_builder.md R108). -/
def countSegment (s : State) : State := { s with segCount := s.segCount + 1 }

/-- The append step, shared by the three appends (40_builder.md R108). -/
def append (e : Entry) (s : State) : Result :=
  if s.segCount = s.cfg.maxSegments then raise .capacityExceeded s
  else andThen (segWrite s.segCount e s) (fun s1 => returnOk (countSegment s1))

/-- Append a Tone of the converted operands, or INVALID_PARAMETER when either is INVALID
(40_builder.md R104, R105). -/
def appendTone (divisor length : Option Nat) (s : State) : Result :=
  match divisor, length with
  | some d, some n => append (entryWord true (BitVec.ofNat 64 d) (BitVec.ofNat 32 n)) s
  | _, _ => raise .invalidParameter s

/-- ADD_TONE's divisor: `sval64(A)`, INVALID below 1 (40_builder.md R104). -/
def signedDivisor (a : Word64) : Option Nat := if sval64 a < 1 then none else some (sval64 a).toNat

/-- ADD_TONE(A, B) (40_builder.md R104). -/
def execAddTone (a b : Word64) (s : State) : Result :=
  whenIdle s <| whenConfigured s <| appendTone (signedDivisor a) (msToSamples s.cfg.numericMode b) s

/-- ADD_TONE_FREQ(A, B) (40_builder.md R105). -/
def execAddToneFreq (a b : Word64) (s : State) : Result :=
  whenIdle s <| whenConfigured s <|
    appendTone (freqToDivisor s.cfg.numericMode a) (msToSamples s.cfg.numericMode b) s

/-- Append a Silence of the converted duration, DIVISOR 0, or INVALID_PARAMETER (40_builder.md R106). -/
def appendSilence (length : Option Nat) (s : State) : Result :=
  match length with
  | some n => append (entryWord false 0#64 (BitVec.ofNat 32 n)) s
  | none => raise .invalidParameter s

/-- ADD_SILENCE(B) (40_builder.md R106). -/
def execAddSilence (b : Word64) (s : State) : Result :=
  whenIdle s <| whenConfigured s <| appendSilence (msToSamples s.cfg.numericMode b) s

end Sys2Proof.Machine
end

