-- ==== Sys2Proof/Machine/Flags.lean ====
section
/-! DEFINITION. The flag-like state: the codes of STATUS (60_exceptions.md R220) and PHASE (10_state.md R26), the two
tone samples (00_scope.md R7), and the phase fix-up (41_synthesizer.md R145, R146). The core has no condition flags
(00_scope.md R13). -/

namespace Sys2Proof.Machine

/-- The 8-bit code of a status (60_exceptions.md R220). -/
def statusCode : Status → BitVec 8
  | .ok => 0x00#8
  | .invalidDestination => 0x01#8
  | .ioError => 0x02#8
  | .invalidParameter => 0x03#8
  | .notConfigured => 0x04#8
  | .sizeOverflow => 0x05#8
  | .capacityExceeded => 0x06#8
  | .illegalCommand => 0x07#8

/-- The 2-bit code of a phase (10_state.md R26); 0b11 is never produced. -/
def phaseCode : Phase → BitVec 2
  | .neutral => 0b00#2
  | .plus => 0b01#2
  | .minus => 0b10#2

/-- The sample AMP_HIGH (00_scope.md R7). -/
def highSample (c : Config) : Sample := BitVec.ofNat 16 c.ampHigh

/-- The sample AMP_LOW = -AMP_HIGH, in two's complement (00_scope.md R7, 42_encoder.md R185). -/
def lowSample (c : Config) : Sample := BitVec.ofInt 16 (-(c.ampHigh : Int))

/-- The phase fix-up on the truncated TMP: no update when it is empty (41_synthesizer.md R146), else PLUS when its last
sample is AMP_HIGH and MINUS otherwise (R145). -/
def phaseAfterTone (c : Config) (tmp : List Sample) (before : Phase) : Phase :=
  match tmp.getLast? with
  | none => before
  | some x => if x = highSample c then .plus else .minus

end Sys2Proof.Machine
end

