-- ==== Sys2Proof/Machine/Synthesizer.lean ====
section
/-! DEFINITION. The Waveform Synthesizer: SEG_SILENCE and SEG_TONE, the source's reference tone algorithm beside its
closed form, and one step of the synthesis pass (41_synthesizer.md). -/

namespace Sys2Proof.Machine

/-! ### The closed form (41_synthesizer.md R148) -/

/-- Sample `k` of a Tone: high when `floor(k / d)` is even, low when it is odd. -/
def toneSample (c : Config) (d k : Nat) : Sample := if k / d % 2 = 0 then highSample c else lowSample c

/-- The `L` samples of a Tone. -/
def tone (c : Config) (d len : Nat) : List Sample := (List.range len).map (toneSample c d)

/-! ### The reference algorithm (41_synthesizer.md R142 to R144) -/

/-- Step 1: `cycleCount = floor(2 * L / d) + 1` (R142). -/
def cycleCount (d len : Nat) : Nat := 2 * len / d + 1

/-- Half-cycle block `j`: `d` copies, high when `j` is even (R143). -/
def halfCycle (c : Config) (d j : Nat) : List Sample :=
  List.replicate d (if j % 2 = 0 then highSample c else lowSample c)

/-- Step 2: the `cycleCount * 2` blocks (R143). -/
def toneBlocks (c : Config) (d cycles : Nat) : List Sample := (List.range (2 * cycles)).flatMap (halfCycle c d)

/-- Step 3: the first `L` samples of them (R144). -/
def toneReference (c : Config) (d len : Nat) : List Sample := (toneBlocks c d (cycleCount d len)).take len

/-! ### The segment operations -/

/-- TMP is generated and truncated: by the closed form, as R148 asks (41_synthesizer.md R142 to R144). -/
def generateTone (d len : Nat) (s : State) : State := { s with tmp := tone s.cfg d len }

/-- The phase fix-up: it reads TMP and writes only PHASE (41_synthesizer.md R145, R146, R151). -/
def fixUpPhase (s : State) : State := { s with phase := phaseAfterTone s.cfg s.tmp s.phase }

/-- "Append the truncated segment buffer", which is then discarded (41_synthesizer.md R147). -/
def appendTmp (s : State) : State := { s with samples := s.samples ++ s.tmp, tmp := [] }

/-- SEG_TONE(d, L) (41_synthesizer.md R147). A divisor 0 never reaches it (R155); with no sample to emit R146 holds
whatever `d` is, and with samples the division of R142 stops the model (log entry 10). -/
def execSegTone (divisor : Word64) (length : BitVec 32) (s : State) : Result :=
  if divisor.toNat = 0 ∧ length.toNat ≠ 0 then .fault .zeroDivisor
  else .next (appendTmp (fixUpPhase (generateTone divisor.toNat length.toNat s)))

/-- `L` zero samples appended and PHASE NEUTRAL, even when `L = 0` (41_synthesizer.md R141). -/
def emitSilence (len : Nat) (s : State) : State :=
  { s with samples := s.samples ++ List.replicate len 0#16, phase := .neutral }

/-- SEG_SILENCE(L) (41_synthesizer.md R141). -/
def execSegSilence (length : BitVec 32) (s : State) : Result := .next (emitSilence length.toNat s)

/-! ### The synthesis pass (41_synthesizer.md R140) -/

/-- The start of the pass. -/
def beginPass (s : State) : State :=
  { s with phase := .neutral, samples := [], trace := [], segIdx := some 0 }

/-- The operation an entry selects, by KIND (30_encoding.md R81). -/
def runEntry (e : Entry) (s : State) : Result :=
  if entryKind e then execSegTone (entryDivisor e) (entryLength e) s else execSegSilence (entryLength e) s

/-- What the loop does after each segment: PHASE_TRACE grows by PHASE and SEG_IDX by 1. -/
def advanceSegment (s : State) : State :=
  { s with trace := s.trace ++ [s.phase], segIdx := s.segIdx.map (· + 1) }

/-- One turn of the loop, with the operation to run on the entry read at SEG_IDX = `i`. -/
def segmentTurn (run : Entry → State → Result) (i : Nat) (s : State) : Result :=
  match segRead s i with
  | none => .fault .segmentAbsent
  | some e => andThen (run e s) (fun s1 => .next (advanceSegment s1))

/-- The turns from SEG_IDX = `i` on, `n` of them. -/
def passTurns : Nat → Nat → State → Result
  | 0, _, s => .next s
  | n + 1, i, s => andThen (segmentTurn runEntry i s) (passTurns n (i + 1))

/-- Synthesize() (41_synthesizer.md R140). -/
def synthesize (s : State) : Result := passTurns s.segCount 0 (beginPass s)

end Sys2Proof.Machine
end

