-- ==== Sys2Proof/Machine/Encoder.lean ====
section
/-! DEFINITION. The Container Encoder and WRITE: little-endian bytes, the 44-byte header, the payload, the stream, its
delivery, and the state after (42_encoder.md). -/

namespace Sys2Proof.Machine

/-! ### Bytes -/

/-- `LE16(v)` (00_scope.md R12, 20_memory.md R53). -/
def le16 (v : BitVec 16) : List Byte := [v.extractLsb' 0 8, v.extractLsb' 8 8]

/-- `LE32(v)` (00_scope.md R12, 20_memory.md R53). -/
def le32 (v : BitVec 32) : List Byte :=
  [v.extractLsb' 0 8, v.extractLsb' 8 8, v.extractLsb' 16 8, v.extractLsb' 24 8]

/-- ASCII "RIFF" (42_encoder.md R182). -/
def tagRiff : List Byte := [0x52#8, 0x49#8, 0x46#8, 0x46#8]

/-- ASCII "WAVE". -/
def tagWave : List Byte := [0x57#8, 0x41#8, 0x56#8, 0x45#8]

/-- ASCII "fmt " with a space. -/
def tagFmt : List Byte := [0x66#8, 0x6D#8, 0x74#8, 0x20#8]

/-- ASCII "data". -/
def tagData : List Byte := [0x64#8, 0x61#8, 0x74#8, 0x61#8]

/-! ### The design constants of 00_scope.md R6 that the header declares -/

def headerBytes : Nat := 44
def formatCode : Nat := 1
def channels : Nat := 1
def bitsPerSample : Nat := 16
def bytesPerSample : Nat := 2
def byteRate : Nat := 192000
def declaredRate : Nat := 96000
def fmtChunkBytes : Nat := 16

/-! ### The stream -/

/-- The total size field's value, `2*S + 44` (42_encoder.md R183; not the RIFF convention, 90_conflicts.md C11). -/
def totalSize (n : Nat) : Nat := bytesPerSample * n + headerBytes

/-- The data size field's value, `2*S` (42_encoder.md R184). -/
def dataSize (n : Nat) : Nat := bytesPerSample * n

/-- `HDR(S)` (42_encoder.md R182). -/
def header (n : Nat) : List Byte :=
  tagRiff ++ le32 (BitVec.ofNat 32 (totalSize n)) ++ tagWave ++ tagFmt ++
    le32 (BitVec.ofNat 32 fmtChunkBytes) ++ le16 (BitVec.ofNat 16 formatCode) ++ le16 (BitVec.ofNat 16 channels) ++
    le32 (BitVec.ofNat 32 declaredRate) ++ le32 (BitVec.ofNat 32 byteRate) ++
    le16 (BitVec.ofNat 16 bytesPerSample) ++ le16 (BitVec.ofNat 16 bitsPerSample) ++
    tagData ++ le32 (BitVec.ofNat 32 (dataSize n))

/-- The payload: each sample as LE16, in order (42_encoder.md R185). -/
def payload (samples : List Sample) : List Byte := samples.flatMap le16

/-- Encode(SAMPLES) (42_encoder.md R186). -/
def encodeStream (samples : List Sample) : List Byte := header samples.length ++ payload samples

/-! ### WRITE -/

/-- The sum of the LENGTH fields of the first `n` entries, nothing if one was never written (42_encoder.md R180). -/
def lengthSum (m : Memory Entry) : Nat → Option Nat
  | 0 => some 0
  | n + 1 =>
    match lengthSum m n, m.get n with
    | some total, some e => some (total + (entryLength e).toNat)
    | _, _ => none

/-- The size check fails: `2*S + 44 > 2^32 - 1` (42_encoder.md R181). -/
def sizeOverflows (n : Nat) : Bool := decide (2 ^ 32 - 1 < totalSize n)

/-- The end of the pass: PHASE NEUTRAL; SAMPLES, TMP and SEG_IDX no longer exist (42_encoder.md R189). -/
def endPass (s : State) : State :=
  { s with phase := .neutral, samples := [], tmp := [], trace := [], segIdx := none }

/-- After the last segment: encode, deliver, emit the trace, discard, answer (42_encoder.md R180, R187, R188). -/
def finishWrite (s : State) : Result :=
  let s1 := endPass (emitTrace (callSinkReplace s.dest (encodeStream s.samples) s))
  match s.answers.sinkReplace with
  | .ok => returnOk s1
  | .fail _ => raise .ioError s1

/-- WRITE() after the checks of the decode step (42_encoder.md R180). -/
def writeList (s : State) : Result :=
  match lengthSum s.seg s.segCount with
  | none => .fault .segmentAbsent
  | some total => if sizeOverflows total then raise .sizeOverflow s else andThen (synthesize s) finishWrite

/-- WRITE() (42_encoder.md R180): one atomic step (00_scope.md R2). -/
def execWrite (s : State) : Result := whenIdle s <| whenConfigured s <| writeList s

end Sys2Proof.Machine
end

