-- ==== Sys2Proof/Machine/Dispatch.lean ====
section
/-! DEFINITION. One arm per instruction. -/

namespace Sys2Proof.Machine

def exec (i : Instr) (s : State) : Host.Outcome State Fault Refusal :=
  match i with
  | .new h => Sys2Proof.Machine.execNew h s
  | .addTone d ms => Sys2Proof.Machine.execAddTone d ms s
  | .addToneFreq f ms => Sys2Proof.Machine.execAddToneFreq f ms s
  | .addSilence ms => Sys2Proof.Machine.execAddSilence ms s
  | .write => Sys2Proof.Machine.execWrite s
  | .segSilence len => Sys2Proof.Machine.execSegSilence len s
  | .segTone d len => Sys2Proof.Machine.execSegTone d len s

end Sys2Proof.Machine
end

