-- ==== Sys2Proof/Machine/Requests.lean ====
section
/-! DEFINITION. What the step takes from the host: the next input, and a command with its answers. -/

namespace Sys2Proof.Machine

/-- The input is taken off the host's list. -/
def takeInput (rest : List HostInput) (s : State) : State := { s with inbox := rest }

/-- The host's answers for a command stand ready while it runs (10_state.md R33). -/
def withAnswers (a : Answers) (s : State) : State := { s with answers := a }

/-- Run one request: refuse an overlap (70_reset_and_hazards.md R253), raise ILLEGAL_COMMAND when the words do not decode,
before any other check (40_builder.md R100, 60_exceptions.md R227), else run the instruction. -/
def runRequest (run : Instr → State → Result) (r : Request) (s : State) : Result :=
  if r.overlaps then .refused .overlappingCommand
  else
    match decodeCommand r.command with
    | .error _ => raise .illegalCommand (withAnswers r.answers s)
    | .ok i => run i (withAnswers r.answers s)

/-- A command placed first in the host's list, the host answering `DestExists` true and `SinkReplace` ok. -/
def placeCommand (c : Command) (s : State) : State :=
  { s with segIdx := none, inbox := .command ⟨c, ⟨true, .ok⟩, false⟩ :: s.inbox }

/-- An entry placed where the synthesis pass reads its next segment: at SEG_IDX of a WRITE in progress (index 0 if none
is), inside the list. -/
def placeEntry (e : Entry) (s : State) : State :=
  { s with
    segIdx := some (s.segIdx.getD 0)
    seg := s.seg.set (s.segIdx.getD 0) e
    segCount := max s.segCount (s.segIdx.getD 0 + 1) }

end Sys2Proof.Machine
end

