-- ==== Sys2Proof/Machine/Step.lean ====
section
/-! DEFINITION. The step: inside a WRITE one segment of the synthesis pass, or its end; otherwise the host's next input.
A WRITE issued by the host is ONE step (00_scope.md R2): no run from reset is ever inside one. -/

namespace Sys2Proof.Machine

/-- The operation of the decoded entry (30_encoding.md R81). -/
def execEntry (e : Entry) (s : State) : Result := exec (decodeEntry e) s

/-- One step of the core. With no input it is idle and keeps its state (60_exceptions.md R238). -/
def step (s : State) : Host.Outcome State Fault Refusal :=
  match s.segIdx with
  | some i => if i < s.segCount then segmentTurn execEntry i s else finishWrite s
  | none =>
    match s.inbox with
    | [] => .next s
    | .reset :: rest => .next (applyReset (takeInput rest s))
    | .command r :: rest => runRequest exec r (takeInput rest s)

/-- The state with the instruction of a table row placed where `step` takes its next one (log entry 9). -/
def State.withFetchWord (s : State) (nbits w : Nat) : State :=
  if tableRowIsEntry nbits then placeEntry (BitVec.ofNat 128 (w % 2 ^ nbits)) s
  else placeCommand (tableCommand (w % 2 ^ nbits)) s

end Sys2Proof.Machine
end

