-- ==== Sys2Proof/Machine/Assembler.lean ====
section
/-! DEFINITION. The assembler syntax (30_encoding.md R88, R89): source lines, their encoding as commands, and reading a
line of text. The assembler is the host's; no step of the core uses it. -/

namespace Sys2Proof.Machine

/-- A decimal number literal: `(-1)^neg * digits * 10^exp10`. -/
structure Decimal where
  neg : Bool
  digits : Nat
  exp10 : Int
  deriving DecidableEq, Repr

/-- One line of assembler source (30_encoding.md R88). -/
inductive AsmLine
  | new (h : Nat)
  | tone (d : Int) (ms : Decimal)
  | tonef (f ms : Decimal)
  | sil (ms : Decimal)
  | write
  deriving DecidableEq, Repr

/-- Why a line assembles to nothing. -/
inductive AsmError
  /-- A literal `d` outside the s64 range (30_encoding.md R88, 93_implementation_defined.md I15). -/
  | divisorOutOfRange
  /-- A literal `h` outside the u64 range (93_implementation_defined.md I15). -/
  | handleOutOfRange
  /-- No line of the syntax of R88. -/
  | notALine
  deriving DecidableEq, Repr

/-- The exact size of a decimal literal. -/
def Decimal.size (x : Decimal) : Frac :=
  match x.exp10 with
  | .ofNat e => ⟨x.digits * 10 ^ e, 1⟩
  | .negSucc e => ⟨x.digits, 10 ^ (e + 1)⟩

/-- `binary64(x)`: the bit pattern of `RNE64(x)` (30_encoding.md R88). -/
def binary64 (x : Decimal) : Word64 := b64bits (rneSigned x.neg x.size)

/-- The encoding of a line (30_encoding.md R88). -/
def assemble : AsmLine → Except AsmError Command
  | .new h => if h < 2 ^ 64 then .ok ⟨0x01#64, BitVec.ofNat 64 h, 0#64⟩ else .error .handleOutOfRange
  | .tone d ms =>
    if -(2 ^ 63) ≤ d ∧ d < 2 ^ 63 then .ok ⟨0x02#64, BitVec.ofInt 64 d, binary64 ms⟩ else .error .divisorOutOfRange
  | .tonef f ms => .ok ⟨0x03#64, binary64 f, binary64 ms⟩
  | .sil ms => .ok ⟨0x04#64, 0#64, binary64 ms⟩
  | .write => .ok ⟨0x05#64, 0#64, 0#64⟩

/-! ### Reading a line of text

R88 fixes the mnemonics, the operands and the comma; spaces around them are the model's reading (log entry 12), and so
are the signs of literals (log entry 24) and that NaN and inf are none (log entry 25). -/

/-- The value of a digit in base 10 or 16. -/
def digitValue (base : Nat) (c : Char) : Option Nat :=
  let n := c.toNat
  if 48 ≤ n ∧ n ≤ 57 then some (n - 48)
  else if base = 16 ∧ 97 ≤ n ∧ n ≤ 102 then some (n - 87)
  else if base = 16 ∧ 65 ≤ n ∧ n ≤ 70 then some (n - 55)
  else none

/-- The value of a run of digits that goes to the end of the text, on top of what stands before it. -/
def digitsFrom (base acc : Nat) : List Char → Option Nat
  | [] => some acc
  | c :: cs =>
    match digitValue base c with
    | some v => digitsFrom base (acc * base + v) cs
    | none => none

/-- A run of at least one digit. -/
def readDigits (base : Nat) (cs : List Char) : Option Nat := if cs.isEmpty then none else digitsFrom base 0 cs

/-- An unsigned literal `h`: decimal, or hexadecimal with `0x`. -/
def readUnsigned : List Char → Option Nat
  | '0' :: 'x' :: cs => readDigits 16 cs
  | cs => readDigits 10 cs

/-- A signed decimal literal `d`. DESIGN CHOICE: a minus sign may stand before it, a plus sign may not (log entry 24). -/
def readSigned : List Char → Option Int
  | '-' :: cs => (readDigits 10 cs).map (fun n => -(n : Int))
  | cs => (readDigits 10 cs).map (fun n => (n : Int))

/-- An exponent: a signed decimal, with a plus sign allowed. -/
def readExponent : List Char → Option Int
  | '+' :: cs => (readDigits 10 cs).map (fun n => (n : Int))
  | cs => readSigned cs

/-- The text before the first character that satisfies `p`, and the text after that character if there is one. -/
def cutAt (p : Char → Bool) : List Char → List Char × Option (List Char)
  | [] => ([], none)
  | c :: cs => if p c then ([], some cs) else (c :: (cutAt p cs).1, (cutAt p cs).2)

/-- Digits with an optional fraction. -/
def readMantissa (cs : List Char) : Option (Nat × Nat) :=
  match cutAt (· == '.') cs with
  | (whole, none) => (readDigits 10 whole).map (fun n => (n, 0))
  | (whole, some fraction) =>
    match readDigits 10 whole, readDigits 10 fraction with
    | some _, some _ => (readDigits 10 (whole ++ fraction)).map (fun n => (n, fraction.length))
    | _, _ => none

/-- An unsigned decimal number with an optional fraction and an optional exponent. -/
def readUnsignedDecimal (neg : Bool) (cs : List Char) : Option Decimal :=
  match cutAt (fun c => c == 'e' || c == 'E') cs with
  | (m, none) => (readMantissa m).map (fun x => ⟨neg, x.1, -(x.2 : Int)⟩)
  | (m, some e) =>
    match readMantissa m, readExponent e with
    | some x, some k => some ⟨neg, x.1, k - (x.2 : Int)⟩
    | _, _ => none

/-- A decimal number literal `ms` or `f`. DESIGN CHOICE: a minus sign may stand before it and a plus sign may not
(log entry 24); NaN and inf are no literals (log entry 25). -/
def readDecimal : List Char → Option Decimal
  | '-' :: cs => readUnsignedDecimal true cs
  | cs => readUnsignedDecimal false cs

/-- The text without the spaces around it. -/
def trimSpaces (cs : List Char) : List Char :=
  ((cs.dropWhile (· == ' ')).reverse.dropWhile (· == ' ')).reverse

/-- The operand field of a line as two operands. -/
def twoOperands (cs : List Char) : Option (List Char × List Char) :=
  match cutAt (· == ',') cs with
  | (a, some b) => some (trimSpaces a, trimSpaces b)
  | (_, none) => none

/-- `TONE d, ms`. -/
def readTone (cs : List Char) : Option AsmLine :=
  match twoOperands cs with
  | none => none
  | some (a, b) =>
    match readSigned a, readDecimal b with
    | some d, some ms => some (.tone d ms)
    | _, _ => none

/-- `TONEF f, ms`. -/
def readTonef (cs : List Char) : Option AsmLine :=
  match twoOperands cs with
  | none => none
  | some (a, b) =>
    match readDecimal a, readDecimal b with
    | some f, some ms => some (.tonef f ms)
    | _, _ => none

/-- One line of text (30_encoding.md R88). -/
def readLine (cs : List Char) : Option AsmLine :=
  match cutAt (· == ' ') (trimSpaces cs) with
  | (['W', 'R', 'I', 'T', 'E'], none) => some .write
  | (['N', 'E', 'W'], some rest) => (readUnsigned (trimSpaces rest)).map .new
  | (['T', 'O', 'N', 'E'], some rest) => readTone rest
  | (['T', 'O', 'N', 'E', 'F'], some rest) => readTonef rest
  | (['S', 'I', 'L'], some rest) => (readDecimal (trimSpaces rest)).map .sil
  | _ => none

/-- Assembling a line of text. -/
def assembleText (line : String) : Except AsmError Command :=
  match readLine line.toList with
  | none => .error .notALine
  | some l => assemble l

end Sys2Proof.Machine
end

