-- ==== Sys2Proof/Safety.lean ====
section
/-! DEFINITION. The terms claims are stated in: what a reader of a stream sees, the segment list and what the spec's
closed forms say a WRITE makes of it, exact values of binary64 data and nearest rounding, the invariant of every state a
run from reset can reach, and what a safe step is. -/

namespace Sys2Proof.Machine

/-! ### Encodings -/

/-- The canonical encodings: a command that is not illegal (30_encoding.md R85), an entry that meets R82. -/
def canonicalEncoding : Encoded → Bool
  | .command c => match decodeCommand c with | .ok _ => true | .error _ => false
  | .entry e => entryWf e

/-- The conditions of 30_encoding.md R85, as the rule lists them. -/
def illegalCommand (c : Command) : Prop :=
  (c.opcode = 0x00#8 ∨ 0x06 ≤ c.opcode.toNat) ∨ c.reserved ≠ 0#56 ∨
    (c.opcode = 0x01#8 ∧ c.w2 ≠ 0#64) ∨ (c.opcode = 0x04#8 ∧ c.w1 ≠ 0#64) ∨
    (c.opcode = 0x05#8 ∧ (c.w1 ≠ 0#64 ∨ c.w2 ≠ 0#64))

/-- The instructions that are host commands (30_encoding.md R84). -/
def hostCommand : Instr → Bool
  | .new _ => true
  | .addTone _ _ => true
  | .addToneFreq _ _ => true
  | .addSilence _ => true
  | .write => true
  | .segSilence _ => false
  | .segTone _ _ => false

/-- The three commands that append (40_builder.md R108). -/
def appendCommand : Instr → Bool
  | .new _ => false
  | .addTone _ _ => true
  | .addToneFreq _ _ => true
  | .addSilence _ => true
  | .write => false
  | .segSilence _ => false
  | .segTone _ _ => false

/-! ### Reading a stream (42_encoder.md R191) -/

/-- The unsigned value of little-endian bytes. -/
def leNat : List Byte → Nat
  | [] => 0
  | b :: bs => b.toNat + 256 * leNat bs

/-- The unsigned little-endian value of `width` bytes at an offset (20_memory.md R55). -/
def leAt (out : List Byte) (offset width : Nat) : Nat := leNat ((out.drop offset).take width)

/-- Little-endian s16 values read from the start of a list of bytes. -/
def samplesOf : List Byte → List Sample
  | b0 :: b1 :: rest => (b1 ++ b0) :: samplesOf rest
  | _ => []

/-! ### The segment list and what a WRITE makes of it -/

/-- The segment list `SEG[0..SEG_COUNT)` in order (20_memory.md R50). -/
def segmentList (s : State) : List Entry := (List.range s.segCount).filterMap (segRead s)

/-- The samples of one entry, by the closed forms (41_synthesizer.md R141, R148). -/
def segmentSamples (c : Config) (e : Entry) : List Sample :=
  if entryKind e then tone c (entryDivisor e).toNat (entryLength e).toNat
  else List.replicate (entryLength e).toNat 0#16

/-- PHASE after a segment, by the table of 41_synthesizer.md R150. -/
def segmentPhase (e : Entry) (p : Phase) : Phase :=
  if entryKind e then
    if (entryLength e).toNat = 0 then p
    else if ((entryLength e).toNat - 1) / (entryDivisor e).toNat % 2 = 0 then .plus
    else .minus
  else .neutral

/-- The phases after each segment of a list, from a phase before it (41_synthesizer.md R140, R152). -/
def listTrace : List Entry → Phase → List Phase
  | [], _ => []
  | e :: es, p => segmentPhase e p :: listTrace es (segmentPhase e p)

/-- SAMPLES at the end of the pass over a list (41_synthesizer.md R154). -/
def listSamples (c : Config) (es : List Entry) : List Sample := es.flatMap (segmentSamples c)

/-- The stream a WRITE hands over (42_encoder.md R186). -/
def writeStream (s : State) : List Byte := encodeStream (listSamples s.cfg (segmentList s))

/-- The PHASE_TRACE a WRITE emits (41_synthesizer.md R152). -/
def writeTrace (s : State) : List Phase := listTrace (segmentList s) .neutral

/-- The state after a WRITE that ran its pass, the host having answered `a` and the status being `st`: the destination
replaced, the call, the trace and the status seen by the host, and the transient elements gone
(42_encoder.md R180, R189). -/
def afterWrite (a : SinkAnswer) (st : Status) (s : State) : State :=
  { s with
    phase := .neutral
    status := st
    segIdx := none
    samples := []
    tmp := []
    trace := []
    sinks := s.sinks.set s.dest.toNat (sinkContent a (writeStream s))
    log := s.log ++ [.sinkReplace s.dest (writeStream s) a, .phaseTrace (writeTrace s), .status st] }

/-- Two states that differ at most where the spec leaves a value unspecified: DEST while there is no Builder
(10_state.md R24) and the store outside the list (20_memory.md R50, 93_implementation_defined.md I6, I7). -/
def sameSpecified (s t : State) : Prop :=
  { s with dest := t.dest, seg := t.seg } = t ∧ (s.configured = true → s.dest = t.dest) ∧
    ∀ i, i < s.segCount → s.seg.get i = t.seg.get i

/-- Two outcomes that are the same stop, or next states that agree on what the spec specifies. -/
def sameOutcome (a b : Result) : Prop :=
  match a, b with
  | .next s, .next t => sameSpecified s t
  | .fault x, .fault y => x = y
  | .refused x, .refused y => x = y
  | _, _ => False

/-! ### The status each command reports (60_exceptions.md R228) -/

/-- An append's status: NOT_CONFIGURED, then INVALID_PARAMETER, then CAPACITY_EXCEEDED. -/
def appendStatus (s : State) (invalid : Bool) : Status :=
  if s.configured = false then .notConfigured
  else if invalid then .invalidParameter
  else if s.segCount = s.cfg.maxSegments then .capacityExceeded
  else .ok

/-- WRITE's status: NOT_CONFIGURED, then SIZE_OVERFLOW, then IO_ERROR. -/
def writeStatus (s : State) (a : SinkAnswer) : Status :=
  if s.configured = false then .notConfigured
  else if (lengthSum s.seg s.segCount).any sizeOverflows then .sizeOverflow
  else match a with
    | .ok => .ok
    | .fail _ => .ioError

/-- The status of a request in a state between commands, in the order of R228. -/
def reportedStatus (s : State) (r : Request) : Status :=
  match decodeCommand r.command with
  | .error _ => .illegalCommand
  | .ok (.new _) => if r.answers.destExists then .ok else .invalidDestination
  | .ok (.addTone a b) => appendStatus s (decide (sval64 a < 1) || (msToSamples s.cfg.numericMode b).isNone)
  | .ok (.addToneFreq a b) =>
    appendStatus s ((freqToDivisor s.cfg.numericMode a).isNone || (msToSamples s.cfg.numericMode b).isNone)
  | .ok (.addSilence b) => appendStatus s (msToSamples s.cfg.numericMode b).isNone
  | .ok .write => writeStatus s r.answers.sinkReplace
  | .ok (.segSilence _) => .ok
  | .ok (.segTone _ _) => .ok

/-! ### Exact values and nearest rounding -/

/-- The exact value of a word whose exponent field is not 2047, by the formulas of 30_encoding.md R76. -/
def b64real (w : Word64) : ℚ :=
  (if b64sign w then -1 else 1) *
    (if b64exponent w = 0 then (b64fraction w : ℚ) / 2 ^ 52 * (2 : ℚ) ^ (-1022 : Int)
     else (1 + (b64fraction w : ℚ) / 2 ^ 52) * (2 : ℚ) ^ ((b64exponent w : Int) - 1023))

/-- The exact value of a finite datum (30_encoding.md R76). -/
def finiteValue (neg : Bool) (mant : Nat) (exp : Int) : ℚ := (if neg then -1 else 1) * mant * (2 : ℚ) ^ exp

/-- The value of a fraction. -/
def Frac.value (x : Frac) : ℚ := (x.num : ℚ) / x.den

/-- The finite data of binary64: a mantissa of 53 bits at an exponent from -1074 to 971, with the top bit set unless the
exponent is -1074 (30_encoding.md R76, read as `mant * 2^exp`). -/
def finiteDatum (mant : Nat) (exp : Int) : Prop :=
  mant < 2 ^ 53 ∧ -1074 ≤ exp ∧ exp ≤ 971 ∧ (2 ^ 52 ≤ mant ∨ exp = -1074)

/-- `mant * 2^exp` is a nearest finite datum to `x`, and when another is as near, the one with the even mantissa
(00_scope.md R12). -/
def nearestEven (x : ℚ) (mant : Nat) (exp : Int) : Prop :=
  finiteDatum mant exp ∧
    ∀ m e, finiteDatum m e →
      |finiteValue false mant exp - x| ≤ |finiteValue false m e - x| ∧
      (|finiteValue false mant exp - x| = |finiteValue false m e - x| → (m = mant ∧ e = exp) ∨ mant % 2 = 0)

/-! ### The invariant -/

/-- Inside a WRITE at SEG_IDX = `i`: a Builder exists, the index is in the list, the trace and SAMPLES are those of the
first `i` segments, and the size check has passed (41_synthesizer.md R140, R154; 42_encoder.md R180, R181). -/
def insideWrite (s : State) (i : Nat) : Prop :=
  s.configured = true ∧ i ≤ s.segCount ∧ s.trace.length = i ∧ lengthSum s.seg i = some s.samples.length ∧
    ∃ total, lengthSum s.seg s.segCount = some total ∧ sizeOverflows total = false

/-- What holds of every state a run from reset reaches. -/
structure CoreInv (s : State) : Prop where
  /-- The parameters meet 00_scope.md R7 and R9. -/
  cfgOk : s.cfg.WF
  /-- SEG_COUNT is in 0..MAX_SEGMENTS (10_state.md R25). -/
  countInStore : s.segCount ≤ s.cfg.maxSegments
  /-- Without a Builder there is no list (60_exceptions.md R221). -/
  unconfiguredEmpty : s.configured = false → s.segCount = 0
  /-- The segment store is in canonical form. -/
  segWf : s.seg.wf = true
  /-- What is written in the store is a well-formed entry at an index the store has (30_encoding.md R82,
  20_memory.md R50). -/
  storeOk : ∀ i e, s.seg.get i = some e → i < s.cfg.maxSegments ∧ entryWf e = true
  /-- Every entry of the list has been written (20_memory.md R50). -/
  listOk : ∀ i, i < s.segCount → (s.seg.get i).isSome = true
  /-- The destinations are in canonical form. -/
  sinksWf : s.sinks.wf = true
  /-- TMP exists only inside a tone segment (10_state.md R30). -/
  tmpEmpty : s.tmp = []
  /-- Every sample is 0, AMP_HIGH or AMP_LOW (41_synthesizer.md R153). -/
  sampleValues : ∀ x ∈ s.samples, x = 0#16 ∨ x = highSample s.cfg ∨ x = lowSample s.cfg
  /-- PHASE is the last of the trace, NEUTRAL when it is empty (41_synthesizer.md R152). -/
  phaseTraced : s.phase = s.trace.getLast?.getD .neutral
  /-- Between commands PHASE is NEUTRAL and the transient elements are empty (10_state.md R20, R26, R29). -/
  idleClean : s.segIdx = none → s.phase = .neutral ∧ s.samples = [] ∧ s.trace = []
  /-- Inside a WRITE, see `insideWrite`. -/
  writing : ∀ i, s.segIdx = some i → insideWrite s i

/-! ### Runs and safe steps -/

/-- `k` steps, ending at the first stop. -/
def runSteps : Nat → State → Result
  | 0, s => .next s
  | k + 1, s => andThen (step s) (runSteps k)

/-- The next input of the host, if it is a command that overlaps another (70_reset_and_hazards.md R253). -/
def nextOverlaps (s : State) : Bool :=
  match s.segIdx, s.inbox with
  | none, .command r :: _ => r.overlaps
  | _, _ => false

/-- A step that neither stops with a fault nor refuses anything but an overlap. -/
def safeStep (s : State) : Prop :=
  match step s with
  | .next _ => True
  | .fault _ => False
  | .refused x => x = .overlappingCommand ∧ nextOverlaps s = true

end Sys2Proof.Machine
end

