-- ==== Sys2Proof/Certificates/Slice0/Obligations.lean ====
section
/-! DEFINITION. The statements for the provers. -/

open Sys2Proof Sys2Proof.Machine

/-! ### Encoding -/

/-- The six encoding examples of 30_encoding.md R91: each line assembles to the words of its row, and the words decode to
the command the line names. -/
def Obligations.EncodingExamplesAssembleAndDecode : Prop :=
  (assembleText "NEW 0x1" = .ok ⟨0x0000000000000001#64, 0x0000000000000001#64, 0x0000000000000000#64⟩ ∧
    decodeCommand ⟨0x0000000000000001#64, 0x0000000000000001#64, 0x0000000000000000#64⟩ = .ok (.new 1#64)) ∧
  (assembleText "TONE 512, 50" = .ok ⟨0x0000000000000002#64, 0x0000000000000200#64, 0x4049000000000000#64⟩ ∧
    decodeCommand ⟨0x0000000000000002#64, 0x0000000000000200#64, 0x4049000000000000#64⟩ =
      .ok (.addTone 512#64 0x4049000000000000#64)) ∧
  (assembleText "TONEF 440, 250" = .ok ⟨0x0000000000000003#64, 0x407B800000000000#64, 0x406F400000000000#64⟩ ∧
    decodeCommand ⟨0x0000000000000003#64, 0x407B800000000000#64, 0x406F400000000000#64⟩ =
      .ok (.addToneFreq 0x407B800000000000#64 0x406F400000000000#64)) ∧
  (assembleText "SIL 250" = .ok ⟨0x0000000000000004#64, 0x0000000000000000#64, 0x406F400000000000#64⟩ ∧
    decodeCommand ⟨0x0000000000000004#64, 0x0000000000000000#64, 0x406F400000000000#64⟩ =
      .ok (.addSilence 0x406F400000000000#64)) ∧
  (assembleText "WRITE" = .ok ⟨0x0000000000000005#64, 0x0000000000000000#64, 0x0000000000000000#64⟩ ∧
    decodeCommand ⟨0x0000000000000005#64, 0x0000000000000000#64, 0x0000000000000000#64⟩ = .ok .write) ∧
  (assembleText "TONE -1, 10" = .ok ⟨0x0000000000000002#64, 0xFFFFFFFFFFFFFFFF#64, 0x4024000000000000#64⟩ ∧
    decodeCommand ⟨0x0000000000000002#64, 0xFFFFFFFFFFFFFFFF#64, 0x4024000000000000#64⟩ =
      .ok (.addTone 0xFFFFFFFFFFFFFFFF#64 0x4024000000000000#64))

/-- Decode and encode agree, both ways: every instruction comes back from its encoding with every operand, and every
canonical encoding is the encoding of the instruction it decodes to. -/
def Obligations.DecodeAndEncodeAgree : Prop :=
  (∀ i : Instr, decode (encode i) = .ok i) ∧
  (∀ (x : Encoded) (i : Instr), canonicalEncoding x = true → decode x = .ok i →
    i.wellFormed = true ∧ encode i = x)

/-- 30_encoding.md R85: a command is illegal exactly on the listed conditions, and an illegal command, whatever the state
between commands, changes STATUS alone (the model's own fields: the input is taken, the response is seen). -/
def Obligations.IllegalCommandsChangeStatusOnly : Prop :=
  (∀ c : Command, (∃ x, decodeCommand c = .error x) ↔ illegalCommand c) ∧
  (∀ (s : State) (r : Request) (rest : List HostInput), s.segIdx = none → s.inbox = .command r :: rest →
    r.overlaps = false → illegalCommand r.command →
    step s = .next { s with
      status := .illegalCommand
      inbox := rest
      answers := r.answers
      log := s.log ++ [.status .illegalCommand] })

/-- The byte transport of 30_encoding.md section 1: 24 bytes, word by word, least significant byte first, and reading them
back gives the command and leaves the bytes after it. -/
def Obligations.TransportCarriesCommands : Prop :=
  ∀ (c : Command) (rest : List Byte),
    (commandBytes c).length = 24 ∧
    takeCommand (commandBytes c ++ rest) = .ok (c, rest) ∧
    (∀ k, k < 8 → (commandBytes c)[k]? = some (c.w0.extractLsb' (8 * k) 8) ∧
      (commandBytes c)[8 + k]? = some (c.w1.extractLsb' (8 * k) 8) ∧
      (commandBytes c)[16 + k]? = some (c.w2.extractLsb' (8 * k) 8))

/-- 30_encoding.md R80: the entry value is DIVISOR, LENGTH and KIND at bits 127:64, 63:32 and 0, everything else 0. -/
def Obligations.EntryWordIsItsFields : Prop :=
  ∀ (kind : Bool) (d : Word64) (n : BitVec 32),
    (entryWord kind d n).toNat = d.toNat * 2 ^ 64 + n.toNat * 2 ^ 32 + (if kind then 1 else 0)

/-- 30_encoding.md R88 and 93_implementation_defined.md I15: literals out of range assemble to nothing; a literal divisor
in range is the value the core reads back, and a handle in range is the handle. -/
def Obligations.AssemblerKeepsIntegers : Prop :=
  (∀ (d : Int) (ms : Decimal), d < -(2 ^ 63) ∨ 2 ^ 63 ≤ d → assemble (.tone d ms) = .error .divisorOutOfRange) ∧
  (∀ (d : Int) (ms : Decimal), -(2 ^ 63) ≤ d → d < 2 ^ 63 →
    ∃ c a, assemble (.tone d ms) = .ok c ∧ decodeCommand c = .ok (.addTone a (binary64 ms)) ∧ sval64 a = d) ∧
  (∀ h : Nat, 2 ^ 64 ≤ h → assemble (.new h) = .error .handleOutOfRange) ∧
  (∀ h : Nat, h < 2 ^ 64 → ∃ c a, assemble (.new h) = .ok c ∧ decodeCommand c = .ok (.new a) ∧ a.toNat = h)

/-- 30_encoding.md section 4: TONEF, SIL and WRITE assemble to commands that decode to the instruction with the binary64 of
each literal (NEW and TONE are in `AssemblerKeepsIntegers`), and the binary64 of a literal `± digits * 10^exp10` is the
pattern of the nearest datum, the even one of two as near, with infinity from half a unit above the largest datum on. That
the sign is the literal's, on a zero and an infinity too, is the model's choice (log entry 8). -/
def Obligations.AssembledLiteralsAreNearestData : Prop :=
  (∀ f ms : Decimal, ∃ c, assemble (.tonef f ms) = .ok c ∧
    decodeCommand c = .ok (.addToneFreq (binary64 f) (binary64 ms))) ∧
  (∀ ms : Decimal, ∃ c, assemble (.sil ms) = .ok c ∧ decodeCommand c = .ok (.addSilence (binary64 ms))) ∧
  (∃ c, assemble .write = .ok c ∧ decodeCommand c = .ok .write) ∧
  ∀ x : Decimal,
    ((x.digits : ℚ) * (10 : ℚ) ^ x.exp10 < (2 ^ 54 - 1) * 2 ^ 970 ∧
      ∃ m e, b64val (binary64 x) = .finite x.neg m e ∧ nearestEven ((x.digits : ℚ) * (10 : ℚ) ^ x.exp10) m e) ∨
    ((2 ^ 54 - 1) * 2 ^ 970 ≤ (x.digits : ℚ) * (10 : ℚ) ^ x.exp10 ∧ b64val (binary64 x) = .infinity x.neg)

/-! ### The step -/

/-- A step between commands runs the instruction of the host's next command, the host's answers standing ready. -/
def Obligations.StepRunsDecodedCommand : Prop :=
  ∀ (s : State) (r : Request) (rest : List HostInput) (i : Instr), s.segIdx = none → s.inbox = .command r :: rest →
    r.overlaps = false → decodeCommand r.command = .ok i →
    step s = exec i (withAnswers r.answers (takeInput rest s))

/-- A step inside a WRITE runs the segment operation of the entry at SEG_IDX, after which the trace has grown by PHASE and
SEG_IDX by 1; at the end of the list it ends the WRITE. That a state inside a WRITE steps one segment at a time is the
model's choice (log entry 15); for the spec a WRITE is one atomic step (00_scope.md section 1). -/
def Obligations.StepRunsDecodedSegment : Prop :=
  (∀ (s t : State) (i : Nat) (e : Entry), s.segIdx = some i → i < s.segCount → segRead s i = some e →
    exec (decodeEntry e) s = .next t →
    step s = .next { t with trace := s.trace ++ [t.phase], segIdx := some (i + 1) }) ∧
  (∀ (s : State) (i : Nat), s.segIdx = some i → s.segCount ≤ i → step s = finishWrite s)

/-- 70_reset_and_hazards.md R253: a command issued before the status of the one before it is refused, and so is any
command in a state that is inside a WRITE. -/
def Obligations.OverlappingCommandsAreRefused : Prop :=
  (∀ (s : State) (r : Request) (rest : List HostInput), s.segIdx = none → s.inbox = .command r :: rest →
    r.overlaps = true → step s = .refused .overlappingCommand) ∧
  (∀ (s : State) (i : Instr) (k : Nat), hostCommand i = true → s.segIdx = some k →
    exec i s = .refused .overlappingCommand)

/-- 60_exceptions.md R238: with nothing issued, the core is idle and every element keeps its value. -/
def Obligations.IdleCoreKeepsItsState : Prop :=
  ∀ s : State, s.segIdx = none → s.inbox = [] → step s = .next s

/-- 70_reset_and_hazards.md section 1: what reset leaves, at power-on and when the host applies it between commands. The
two elements whose reset value is unspecified are not mentioned; the parameters are unchanged. That an applied reset keeps
the host's further inputs, its destinations and what it has seen, and so returns no status, is the model's inference
(log entry 17, DEDUCED) from 10_state.md section 5, by which these are the host's and not the core's. -/
def Obligations.ResetValues : Prop :=
  (∀ c : Config, (State.resetOf c).cfg = c ∧ (State.resetOf c).configured = false ∧ (State.resetOf c).segCount = 0 ∧
    (State.resetOf c).phase = .neutral ∧ (State.resetOf c).status = .ok ∧ (State.resetOf c).segIdx = none ∧
    (State.resetOf c).samples = [] ∧ (State.resetOf c).tmp = []) ∧
  (∀ (s : State) (rest : List HostInput), s.segIdx = none → s.inbox = .reset :: rest →
    ∃ t, step s = .next t ∧ t.cfg = s.cfg ∧ t.configured = false ∧ t.segCount = 0 ∧ t.phase = .neutral ∧
      t.status = .ok ∧ t.segIdx = none ∧ t.samples = [] ∧ t.tmp = [] ∧ t.inbox = rest ∧ t.sinks = s.sinks ∧
      t.log = s.log)

/-! ### The Segment List Builder -/

/-- 40_builder.md R103: NEW empties the list and clears CONFIGURED, asks `DestExists` once, and on true takes the handle
and sets CONFIGURED; on false it reports INVALID_DESTINATION with DEST as it was. Its whole effect, for both answers, and
its encoding: OPCODE 0x01, the handle in A, illegal when B is not 0. -/
def Obligations.NewStartsABuilder : Prop :=
  (∀ h b : Word64, decodeCommand ⟨0x01#64, h, b⟩ =
    if b = 0#64 then .ok (.new h) else .error .unusedOperandNotZero) ∧
  ∀ (h : Word64) (s : State), s.segIdx = none →
    (s.answers.destExists = true →
      exec (.new h) s = .next { s with
        segCount := 0
        configured := true
        dest := h
        status := .ok
        log := s.log ++ [.destExists h true, .status .ok] }) ∧
    (s.answers.destExists = false →
      exec (.new h) s = .next { s with
        segCount := 0
        configured := false
        status := .invalidDestination
        log := s.log ++ [.destExists h false, .status .invalidDestination] })

/-- 60_exceptions.md R224: without a Builder the appends and WRITE raise NOT_CONFIGURED and change STATUS alone. -/
def Obligations.CommandsNeedABuilder : Prop :=
  ∀ (i : Instr) (s : State), (appendCommand i = true ∨ i = .write) → s.segIdx = none → s.configured = false →
    exec i s = .next { s with status := .notConfigured, log := s.log ++ [.status .notConfigured] }

/-- 40_builder.md R104: with a divisor of at least 1, a valid duration and room, ADD_TONE appends the Tone's entry. -/
def Obligations.AddToneAppendsATone : Prop :=
  ∀ (a b : Word64) (n : Nat) (s : State), s.segIdx = none → s.configured = true → 1 ≤ sval64 a →
    msToSamples s.cfg.numericMode b = some n → s.segCount < s.cfg.maxSegments →
    exec (.addTone a b) s = .next { s with
      seg := s.seg.set s.segCount (entryWord true a (BitVec.ofNat 32 n))
      segCount := s.segCount + 1
      status := .ok
      log := s.log ++ [.status .ok] }

/-- 40_builder.md R105: with a convertible frequency, a valid duration and room, ADD_TONE_FREQ appends the Tone's entry. -/
def Obligations.AddToneFreqAppendsATone : Prop :=
  ∀ (a b : Word64) (d n : Nat) (s : State), s.segIdx = none → s.configured = true →
    freqToDivisor s.cfg.numericMode a = some d → msToSamples s.cfg.numericMode b = some n →
    s.segCount < s.cfg.maxSegments →
    exec (.addToneFreq a b) s = .next { s with
      seg := s.seg.set s.segCount (entryWord true (BitVec.ofNat 64 d) (BitVec.ofNat 32 n))
      segCount := s.segCount + 1
      status := .ok
      log := s.log ++ [.status .ok] }

/-- 40_builder.md R106: with a valid duration and room, ADD_SILENCE appends the Silence's entry, DIVISOR 0. -/
def Obligations.AddSilenceAppendsASilence : Prop :=
  ∀ (b : Word64) (n : Nat) (s : State), s.segIdx = none → s.configured = true →
    msToSamples s.cfg.numericMode b = some n → s.segCount < s.cfg.maxSegments →
    exec (.addSilence b) s = .next { s with
      seg := s.seg.set s.segCount (entryWord false 0#64 (BitVec.ofNat 32 n))
      segCount := s.segCount + 1
      status := .ok
      log := s.log ++ [.status .ok] }

/-- 60_exceptions.md section 1, INVALID_PARAMETER, raised (room or no room) exactly for an operand that does not convert,
with STATUS alone changed. What converts is said by the conversion statements. -/
def Obligations.InvalidOperandsRaiseInvalidParameter : Prop :=
  ∀ (a b : Word64) (s : State), s.segIdx = none → s.configured = true →
    (exec (.addTone a b) s =
        .next { s with status := .invalidParameter, log := s.log ++ [.status .invalidParameter] } ↔
      sval64 a < 1 ∨ msToSamples s.cfg.numericMode b = none) ∧
    (exec (.addToneFreq a b) s =
        .next { s with status := .invalidParameter, log := s.log ++ [.status .invalidParameter] } ↔
      freqToDivisor s.cfg.numericMode a = none ∨ msToSamples s.cfg.numericMode b = none) ∧
    (exec (.addSilence b) s =
        .next { s with status := .invalidParameter, log := s.log ++ [.status .invalidParameter] } ↔
      msToSamples s.cfg.numericMode b = none)

/-- 60_exceptions.md R226: an append with valid operands on a full store raises CAPACITY_EXCEEDED, STATUS alone changed. -/
def Obligations.FullStoreRaisesCapacityExceeded : Prop :=
  ∀ (a b : Word64) (s : State), s.segIdx = none → s.configured = true → s.segCount = s.cfg.maxSegments →
    (msToSamples s.cfg.numericMode b).isSome = true →
    (1 ≤ sval64 a → exec (.addTone a b) s =
      .next { s with status := .capacityExceeded, log := s.log ++ [.status .capacityExceeded] }) ∧
    ((freqToDivisor s.cfg.numericMode a).isSome = true → exec (.addToneFreq a b) s =
      .next { s with status := .capacityExceeded, log := s.log ++ [.status .capacityExceeded] }) ∧
    exec (.addSilence b) s =
      .next { s with status := .capacityExceeded, log := s.log ++ [.status .capacityExceeded] }

/-- 40_builder.md R107: ADD_TONE_FREQ has exactly the effect and status of ADD_TONE with the converted divisor, or with
divisor 0 when the frequency does not convert; then INVALID_PARAMETER with a Builder and NOT_CONFIGURED without. -/
def Obligations.FrequencyIsConvertedDivisor : Prop :=
  ∀ (a b : Word64) (s : State),
    (∀ d, freqToDivisor s.cfg.numericMode a = some d →
      exec (.addToneFreq a b) s = exec (.addTone (BitVec.ofNat 64 d) b) s) ∧
    (freqToDivisor s.cfg.numericMode a = none →
      exec (.addToneFreq a b) s = exec (.addTone 0#64 b) s ∧
      (s.segIdx = none → ∃ t, exec (.addToneFreq a b) s = .next t ∧
        t.status = if s.configured then .invalidParameter else .notConfigured))

/-- 40_builder.md R108: an append writes one well-formed entry at SEG_COUNT and counts it, or on any exception does
neither. -/
def Obligations.AppendIsAtomic : Prop :=
  ∀ (i : Instr) (s t : State), appendCommand i = true → exec i s = .next t →
    (t.status = .ok ∧ t.segCount = s.segCount + 1 ∧ s.segCount < s.cfg.maxSegments ∧
      ∃ e, entryWf e = true ∧ t.seg = s.seg.set s.segCount e) ∨
    (t.status ≠ .ok ∧ t.segCount = s.segCount ∧ t.seg = s.seg)

/-- 40_builder.md R109: the builder commands never call `SinkReplace`, never synthesize and never write or read PHASE,
SAMPLES or TMP; NEW's only host interaction besides its status is one `DestExists` query, the appends have none. -/
def Obligations.BuilderCommandsOnlyBuild : Prop :=
  ∀ (i : Instr) (s t : State), exec i s = .next t →
    (appendCommand i = true → t.log = s.log ++ [.status t.status] ∧ t.dest = s.dest ∧ t.configured = s.configured) ∧
    (∀ h, i = .new h → t.log = s.log ++ [.destExists h s.answers.destExists, .status t.status] ∧ t.seg = s.seg) ∧
    ((appendCommand i = true ∨ ∃ h, i = .new h) →
      t.phase = s.phase ∧ t.samples = s.samples ∧ t.tmp = s.tmp ∧ t.trace = s.trace ∧ t.segIdx = s.segIdx ∧
      t.sinks = s.sinks ∧ t.cfg = s.cfg ∧ t.inbox = s.inbox ∧ t.answers = s.answers ∧
      ∀ p xs ys, exec i { s with phase := p, samples := xs, tmp := ys } =
        .next { t with phase := p, samples := xs, tmp := ys })

/-! ### The conversions -/

/-- 40_builder.md section 1, `msToSamples` in EXACT mode: INVALID for NaN and the infinities, for a value below 0 and for
a length above LEN_MAX; else the floor of 96 times the exact value of the operand (30_encoding.md R76). -/
def Obligations.ExactDurationIsFloorOf96Times : Prop :=
  ∀ w : Word64,
    msToSamples .exact w =
      if b64exponent w = 2047 ∨ b64real w < 0 ∨ 2 ^ 32 - 1 < ⌊96 * b64real w⌋ then none
      else some ⌊96 * b64real w⌋.toNat

/-- 40_builder.md section 1, `freqToDivisor` in EXACT mode: INVALID for NaN and the infinities, for a value not above 0
and for a divisor outside 1..DIV_MAX; else the floor of 48000 over the exact value. -/
def Obligations.ExactDivisorIsFloorOfQuotient : Prop :=
  ∀ w : Word64,
    freqToDivisor .exact w =
      if b64exponent w = 2047 ∨ b64real w ≤ 0 ∨ ⌊48000 / b64real w⌋ < 1 ∨ 2 ^ 63 - 1 < ⌊48000 / b64real w⌋ then none
      else some ⌊48000 / b64real w⌋.toNat

/-- 00_scope.md section 4, `RNE64`: the result is the nearest finite datum, the even one of two as near, and +infinity
exactly from half a unit above the largest finite datum on. -/
def Obligations.RoundingIsToNearestEven : Prop :=
  ∀ x : Frac, 0 < x.den →
    (x.value < (2 ^ 54 - 1) * 2 ^ 970 ∧ ∃ m e, rne64 x = .finite false m e ∧ nearestEven x.value m e) ∨
    ((2 ^ 54 - 1) * 2 ^ 970 ≤ x.value ∧ rne64 x = .infinity false)

/-- 40_builder.md section 1, `msToSamples` in BINARY64 mode: the floor of the rounded product by 96000 of the rounded
quotient by 1000, INVALID where it exceeds LEN_MAX, for NaN, the infinities and negatives. -/
def Obligations.Binary64DurationRoundsTwice : Prop :=
  ∀ (w : Word64) (n : Nat),
    msToSamples .binary64 w = some n ↔
      b64exponent w ≠ 2047 ∧ 0 ≤ b64real w ∧ n ≤ 2 ^ 32 - 1 ∧
      ∃ m1 e1 m2 e2, nearestEven (b64real w / 1000) m1 e1 ∧
        nearestEven (finiteValue false m1 e1 * 96000) m2 e2 ∧ ⌊finiteValue false m2 e2⌋ = n

/-- 40_builder.md section 1, `freqToDivisor` in BINARY64 mode: the floor of the rounded quotient of 48000, INVALID outside
1..DIV_MAX, for NaN, the infinities, zeros and negatives. -/
def Obligations.Binary64DivisorRoundsOnce : Prop :=
  ∀ (w : Word64) (d : Nat),
    freqToDivisor .binary64 w = some d ↔
      b64exponent w ≠ 2047 ∧ 0 < b64real w ∧ 1 ≤ d ∧ d ≤ 2 ^ 63 - 1 ∧
      ∃ m e, nearestEven (48000 / b64real w) m e ∧ ⌊finiteValue false m e⌋ = d

/-- 95_test_vectors.md sections 2.1 and 2.2: vectors on which the two numeric modes differ, and the limits. -/
def Obligations.ConversionVectors : Prop :=
  (msToSamples .exact 0x4022000000000000#64 = some 864 ∧ msToSamples .binary64 0x4022000000000000#64 = some 863) ∧
  (msToSamples .exact 0x3F85555555555555#64 = some 0 ∧ msToSamples .binary64 0x3F85555555555555#64 = some 1) ∧
  (msToSamples .exact 0x4185555555555555#64 = some 4294967295 ∧ msToSamples .binary64 0x4185555555555555#64 = none) ∧
  (msToSamples .exact 0x8000000000000000#64 = some 0 ∧ msToSamples .binary64 0x8000000000000000#64 = some 0) ∧
  (freqToDivisor .exact 0x3FB999999999999A#64 = some 479999 ∧
    freqToDivisor .binary64 0x3FB999999999999A#64 = some 480000) ∧
  (freqToDivisor .exact 0x40E7700000000000#64 = some 1 ∧ freqToDivisor .binary64 0x40E7700000000000#64 = some 1) ∧
  (freqToDivisor .exact 0x40E7700000000001#64 = none ∧ freqToDivisor .binary64 0x40E7700000000001#64 = none)

/-! ### The Waveform Synthesizer -/

/-- 41_synthesizer.md R141: SEG_SILENCE appends exactly L zero samples and makes PHASE NEUTRAL, L = 0 included, and does
nothing else. An entry whose KIND is 0 selects it, with `L = e[63:32]`. -/
def Obligations.SegSilenceAppendsZeros : Prop :=
  (∀ (n : BitVec 32) (s : State),
    exec (.segSilence n) s =
      .next { s with samples := s.samples ++ List.replicate n.toNat 0#16, phase := .neutral }) ∧
  ∀ e : Entry, e.getLsbD 0 = false → decodeEntry e = .segSilence (e.extractLsb' 32 32)

/-- 41_synthesizer.md R147: SEG_TONE appends the first L samples of the reference algorithm's blocks (R142 to R144), sets
PHASE from the last of them (R145) or, with none, keeps it (R146), and does nothing else. An entry whose KIND is 1 selects
it, with `d = e[127:64]` and `L = e[63:32]`. -/
def Obligations.SegToneIsTheReferenceAlgorithm : Prop :=
  (∀ e : Entry, e.getLsbD 0 = true → decodeEntry e = .segTone (e.extractLsb' 64 64) (e.extractLsb' 32 32)) ∧
  ∀ (d : Word64) (n : BitVec 32) (s : State), 1 ≤ d.toNat →
    exec (.segTone d n) s =
      .next { s with
        samples := s.samples ++ toneReference s.cfg d.toNat n.toNat
        tmp := []
        phase :=
          match (toneReference s.cfg d.toNat n.toNat).getLast? with
          | none => s.phase
          | some x => if x = highSample s.cfg then .plus else .minus }

/-- The model's choice of log entry 10: a Tone of divisor 0, which 41_synthesizer.md R155 says cannot reach the operation,
stops the model when it has samples to emit and otherwise emits nothing and keeps PHASE. -/
def Obligations.ZeroDivisorToneStopsUnlessEmpty : Prop :=
  (∀ (n : BitVec 32) (s : State), n.toNat ≠ 0 → exec (.segTone 0#64 n) s = .fault .zeroDivisor) ∧
  ∀ s : State, exec (.segTone 0#64 0#32) s = .next { s with tmp := [] }

/-- 41_synthesizer.md R148: the samples SEG_TONE appends are exactly L, high where `floor(k / d)` is even and low where it
is odd, and the reference algorithm of R142 to R144 gives the same. -/
def Obligations.ReferenceToneIsTheClosedForm : Prop :=
  (∀ (d : Word64) (n : BitVec 32) (s : State), 1 ≤ d.toNat →
    ∃ t new, exec (.segTone d n) s = .next t ∧ t.samples = s.samples ++ new ∧ new.length = n.toNat ∧
      ∀ k, k < n.toNat → new[k]? = some (if k / d.toNat % 2 = 0 then highSample s.cfg else lowSample s.cfg)) ∧
  ∀ (c : Config) (d n : Nat), 1 ≤ d →
    (toneReference c d n).length = n ∧
    ∀ k, k < n → (toneReference c d n)[k]? = some (if k / d % 2 = 0 then highSample c else lowSample c)

/-- 41_synthesizer.md R149 and R150: the phase after a segment, from the closed form alone. -/
def Obligations.PhaseAfterSegmentTable : Prop :=
  ∀ (e : Entry) (s t : State), s.cfg.WF → entryWf e = true → exec (decodeEntry e) s = .next t →
    t.phase =
      if entryKind e = false then .neutral
      else if (entryLength e).toNat = 0 then s.phase
      else if ((entryLength e).toNat - 1) / (entryDivisor e).toNat % 2 = 0 then .plus
      else .minus

/-- 41_synthesizer.md R151: a segment run after any phase appends the same samples, and a Tone always starts with a high
block (cut short only by its length), whatever PHASE holds. -/
def Obligations.PhaseNeverSelectsSamples : Prop :=
  ∀ (e : Entry) (p : Phase) (s t : State), exec (decodeEntry e) s = .next t →
    (∃ t', exec (decodeEntry e) { s with phase := p } = .next t' ∧ t'.samples = t.samples) ∧
    (entryKind e = true →
      ∃ rest, t.samples = s.samples ++
        List.replicate (min (entryDivisor e).toNat (entryLength e).toNat) (highSample s.cfg) ++ rest)

/-- 41_synthesizer.md R153: a segment's samples are 0 or AMP_HIGH and AMP_LOW, and the three values are distinct. -/
def Obligations.SampleValuesAreThree : Prop :=
  ∀ (e : Entry) (s t : State), s.cfg.WF → exec (decodeEntry e) s = .next t →
    (∃ new, t.samples = s.samples ++ new ∧
      ∀ x ∈ new, if entryKind e then x = highSample s.cfg ∨ x = lowSample s.cfg else x = 0#16) ∧
    highSample s.cfg ≠ 0#16 ∧ lowSample s.cfg ≠ 0#16 ∧ highSample s.cfg ≠ lowSample s.cfg ∧
    (highSample s.cfg).toInt = s.cfg.ampHigh ∧ (lowSample s.cfg).toInt = -s.cfg.ampHigh

/-- 40_builder.md section 2 (the frequency of a Tone): half-cycles of `d` samples and full cycles of `2*d`. -/
def Obligations.ToneHasPeriodTwiceTheDivisor : Prop :=
  ∀ (c : Config) (d n k : Nat), c.WF → 1 ≤ d →
    (k + 2 * d < n → (tone c d n)[k + 2 * d]? = (tone c d n)[k]?) ∧
    (k + d < n → (tone c d n)[k + d]? ≠ (tone c d n)[k]?)

/-- 41_synthesizer.md R154: the pass completes; its samples are those of the segments in order, by the closed forms, their
count is the sum of the LENGTH fields, and segment `i`'s `L` samples stand after the sum of the lengths before it. -/
def Obligations.PassEmitsEverySegment : Prop :=
  ∀ s : State, CoreInv s → s.segIdx = none →
    ∃ t, synthesize s = .next t ∧ t.samples = listSamples s.cfg (segmentList s) ∧
      lengthSum s.seg s.segCount = some t.samples.length ∧ t.trace = writeTrace s ∧ t.trace.length = s.segCount ∧
      t.segIdx = some s.segCount ∧
      ∀ i e, i < s.segCount → segRead s i = some e →
        (segmentSamples s.cfg e).length = (entryLength e).toNat ∧
        ∃ lo, lengthSum s.seg i = some lo ∧
          (t.samples.drop lo).take (entryLength e).toNat = segmentSamples s.cfg e

/-- 41_synthesizer.md R152: PHASE_TRACE has, for each Tone with L at least 1, PLUS exactly when the last sample the
segment emitted is AMP_HIGH and MINUS otherwise, and NEUTRAL for each Silence. -/
def Obligations.TraceRecordsLastSample : Prop :=
  ∀ (s t : State) (i : Nat) (e : Entry), CoreInv s → s.segIdx = none → synthesize s = .next t → i < s.segCount →
    segRead s i = some e →
    (entryKind e = true → 1 ≤ (entryLength e).toNat →
      t.trace[i]? = some (if (segmentSamples s.cfg e).getLast? = some (highSample s.cfg) then .plus else .minus)) ∧
    (entryKind e = false → t.trace[i]? = some .neutral)

/-- 41_synthesizer.md R156: SAMPLES and PHASE_TRACE are functions of the list and AMP_HIGH alone. -/
def Obligations.PassDependsOnListAndAmplitude : Prop :=
  ∀ s t s' t' : State, s.cfg.ampHigh = t.cfg.ampHigh → s.segCount = t.segCount →
    (∀ i, i < s.segCount → segRead s i = segRead t i) → synthesize s = .next s' → synthesize t = .next t' →
    s'.samples = t'.samples ∧ s'.trace = t'.trace

/-! ### The Container Encoder and WRITE -/

/-- 42_encoder.md R182: the header is the first 44 bytes of the stream, with its fields at their offsets, up to the
largest size that WRITE accepts. -/
def Obligations.HeaderLayout : Prop :=
  (∀ samples : List Sample, (encodeStream samples).take 44 = header samples.length) ∧
  ∀ n : Nat, 2 * n + 44 ≤ 2 ^ 32 - 1 →
    (header n).length = 44 ∧
    (header n).take 4 = [0x52#8, 0x49#8, 0x46#8, 0x46#8] ∧ leAt (header n) 4 4 = 2 * n + 44 ∧
    ((header n).drop 8).take 4 = [0x57#8, 0x41#8, 0x56#8, 0x45#8] ∧
    ((header n).drop 12).take 4 = [0x66#8, 0x6D#8, 0x74#8, 0x20#8] ∧ leAt (header n) 16 4 = 16 ∧
    leAt (header n) 20 2 = 1 ∧ leAt (header n) 22 2 = 1 ∧ leAt (header n) 24 4 = 96000 ∧
    leAt (header n) 28 4 = 192000 ∧ leAt (header n) 32 2 = 2 ∧ leAt (header n) 34 2 = 16 ∧
    ((header n).drop 36).take 4 = [0x64#8, 0x61#8, 0x74#8, 0x61#8] ∧ leAt (header n) 40 4 = 2 * n

/-- 42_encoder.md R191: the length, the samples and the total size are all recovered from the stream. -/
def Obligations.StreamRoundTrip : Prop :=
  ∀ samples : List Sample, 2 * samples.length + 44 ≤ 2 ^ 32 - 1 →
    (encodeStream samples).length = 44 + leAt (encodeStream samples) 40 4 ∧
    samplesOf ((encodeStream samples).drop 44) = samples ∧
    (samplesOf ((encodeStream samples).drop 44)).length = leAt (encodeStream samples) 40 4 / 2 ∧
    leAt (encodeStream samples) 4 4 = leAt (encodeStream samples) 40 4 + 44

/-- 20_memory.md section 2 (where fields meet): sample `k` stands at offsets `44 + 2k`, its low byte, and `45 + 2k`. -/
def Obligations.SampleOffsets : Prop :=
  ∀ (samples : List Sample) (k : Nat) (x : Sample), samples[k]? = some x →
    (encodeStream samples)[44 + 2 * k]? = some (x.extractLsb' 0 8) ∧
    (encodeStream samples)[45 + 2 * k]? = some (x.extractLsb' 8 8)

/-- 42_encoder.md section 1, the host answering ok: WRITE completes; the destination holds the stream of the list's
samples, one `SinkReplace`, the PHASE_TRACE and OK are seen, and everything else is as before. The model's, not the
spec's: that the three are seen in this order is read from the lines of R180 (log entry 22, DEDUCED), and that no other
handle's content changes is log entry 23. -/
def Obligations.WriteDeliversTheList : Prop :=
  ∀ (s : State) (n : Nat), CoreInv s → s.segIdx = none → s.configured = true →
    lengthSum s.seg s.segCount = some n → 2 * n + 44 ≤ 2 ^ 32 - 1 → s.answers.sinkReplace = .ok →
    exec .write s = .next (afterWrite .ok .ok s)

/-- 42_encoder.md sections 1 and 4, the host answering fail: IO_ERROR, the state as after a successful WRITE but for
STATUS, the PHASE_TRACE still emitted, the destination's content whatever the host left there, with no condition on it. The
model's, not the spec's: the order `SinkReplace`, PHASE_TRACE, status is read from the lines of R180 (log entry 22,
DEDUCED), and that no other handle's content changes is log entry 23. -/
def Obligations.FailedWriteLeavesAnyContent : Prop :=
  ∀ (s : State) (n : Nat) (content : List Byte), CoreInv s → s.segIdx = none → s.configured = true →
    lengthSum s.seg s.segCount = some n → 2 * n + 44 ≤ 2 ^ 32 - 1 → s.answers.sinkReplace = .fail content →
    ∃ t, exec .write s = .next t ∧ t = afterWrite (.fail content) .ioError s ∧
      t.sinks.get s.dest.toNat = some content

/-- 20_memory.md section 3 and 42_encoder.md sections 3 to 5: after an ok the destination holds exactly the stream, header
and payload of the list's samples, of `44 + 2*S` bytes, and every other handle's destination what it held (that two handles never name one storage is the
model's choice, log entry 23). -/
def Obligations.DestinationHoldsTheStream : Prop :=
  ∀ (s t : State) (n : Nat), CoreInv s → s.segIdx = none → s.configured = true → lengthSum s.seg s.segCount = some n →
    2 * n + 44 ≤ 2 ^ 32 - 1 → s.answers.sinkReplace = .ok → exec .write s = .next t →
    (∃ out, t.sinks.get s.dest.toNat = some out ∧ out = writeStream s ∧ out.length = 44 + 2 * n ∧
      out.take 44 = header n ∧ samplesOf (out.drop 44) = listSamples s.cfg (segmentList s)) ∧
    ∀ h, h ≠ s.dest.toNat → t.sinks.get h = s.sinks.get h

/-- 42_encoder.md R181 and 60_exceptions.md R225: a list too long for the size fields raises SIZE_OVERFLOW, with no
synthesis, no `SinkReplace` and STATUS alone changed. -/
def Obligations.TooLongAListRaisesSizeOverflow : Prop :=
  ∀ (s : State) (n : Nat), s.segIdx = none → s.configured = true → lengthSum s.seg s.segCount = some n →
    2 ^ 32 - 1 < 2 * n + 44 →
    exec .write s = .next { s with status := .sizeOverflow, log := s.log ++ [.status .sizeOverflow] }

/-- 42_encoder.md R189: after a WRITE, whatever its outcome, CONFIGURED, DEST, SEG_COUNT and the list are unchanged,
PHASE is NEUTRAL, the transient elements are gone and STATUS holds the WRITE's status. -/
def Obligations.WriteKeepsTheList : Prop :=
  ∀ s : State, CoreInv s → s.segIdx = none →
    ∃ t, exec .write s = .next t ∧ t.configured = s.configured ∧ t.dest = s.dest ∧ t.segCount = s.segCount ∧
      t.seg = s.seg ∧ t.cfg = s.cfg ∧ t.phase = .neutral ∧ t.samples = [] ∧ t.tmp = [] ∧ t.segIdx = none ∧
      t.status = writeStatus s s.answers.sinkReplace ∧ t.log.getLast? = some (.status t.status)

/-- 20_memory.md section 3 (idempotence): two WRITEs with no command between hand over the same bytes. That each WRITE is
seen as `SinkReplace`, PHASE_TRACE, status in this order is the model's reading of the lines of R180 in 42_encoder.md
section 1 (log entry 22, DEDUCED). -/
def Obligations.RepeatedWriteIsByteIdentical : Prop :=
  ∀ (s : State) (n : Nat) (a : Answers), CoreInv s → s.segIdx = none → s.configured = true →
    lengthSum s.seg s.segCount = some n → 2 * n + 44 ≤ 2 ^ 32 - 1 →
    ∃ t u out st st', exec .write s = .next t ∧ exec .write (withAnswers a t) = .next u ∧
      u.log = s.log ++ [.sinkReplace s.dest out s.answers.sinkReplace, .phaseTrace (writeTrace s), .status st,
        .sinkReplace s.dest out a.sinkReplace, .phaseTrace (writeTrace s), .status st']

/-- 42_encoder.md section 5 (the empty WRITE): with an empty list the stream is the 44 header bytes and the trace is
empty. The order `SinkReplace`, PHASE_TRACE, status is the model's reading of the lines of R180 in 42_encoder.md section 1
(log entry 22, DEDUCED). -/
def Obligations.EmptyWriteIsTheHeader : Prop :=
  ∀ s : State, s.segIdx = none → s.configured = true → s.segCount = 0 → s.answers.sinkReplace = .ok →
    ∃ t, exec .write s = .next t ∧ t.status = .ok ∧
      t.log = s.log ++ [.sinkReplace s.dest
        [0x52#8, 0x49#8, 0x46#8, 0x46#8, 0x2C#8, 0x00#8, 0x00#8, 0x00#8, 0x57#8, 0x41#8, 0x56#8, 0x45#8,
         0x66#8, 0x6D#8, 0x74#8, 0x20#8, 0x10#8, 0x00#8, 0x00#8, 0x00#8, 0x01#8, 0x00#8, 0x01#8, 0x00#8,
         0x00#8, 0x77#8, 0x01#8, 0x00#8, 0x00#8, 0xEE#8, 0x02#8, 0x00#8, 0x02#8, 0x00#8, 0x10#8, 0x00#8,
         0x64#8, 0x61#8, 0x74#8, 0x61#8, 0x00#8, 0x00#8, 0x00#8, 0x00#8] .ok,
        .phaseTrace [], .status .ok]

/-- 00_scope.md section 1 (each command one atomic step) and 41_synthesizer.md section 1: the atomic WRITE is its pass run
segment by segment, one step for each and one for the end. That a state inside a WRITE steps one segment at a time is the
model's choice (log entry 15). -/
def Obligations.WriteIsItsPassStepByStep : Prop :=
  ∀ (s : State) (n : Nat), s.segIdx = none → s.configured = true → lengthSum s.seg s.segCount = some n →
    2 * n + 44 ≤ 2 ^ 32 - 1 →
    runSteps (s.segCount + 1) (beginPass s) = exec .write s

/-! ### The whole machine -/

/-- The invariant holds of the state after reset, whatever the parameters, and of the installed instance's. -/
def Obligations.ResetMeetsTheInvariant : Prop :=
  (∀ c : Config, c.WF → CoreInv (State.resetOf c)) ∧ CoreInv State.reset

/-- Every step keeps the invariant. -/
def Obligations.StepKeepsTheInvariant : Prop :=
  ∀ s t : State, CoreInv s → step s = .next t → CoreInv t

/-- From a state that meets the invariant no step stops with a fault (41_synthesizer.md section 4: the pass cannot fail),
and nothing but an overlapping command is refused. -/
def Obligations.StepsAreSafe : Prop :=
  ∀ s : State, CoreInv s → safeStep s

/-- 60_exceptions.md R228: a command reports the first status that applies, in the rule's order, and exactly one. -/
def Obligations.StatusFollowsThePriorityOrder : Prop :=
  ∀ (s : State) (r : Request) (rest : List HostInput), CoreInv s → s.segIdx = none → s.inbox = .command r :: rest →
    r.overlaps = false →
    ∃ t evs, step s = .next t ∧ t.status = reportedStatus s r ∧ t.log = s.log ++ evs ++ [.status t.status] ∧
      ∀ st, Event.status st ∉ evs

/-- 10_state.md R35: every step leaves the parameters alone, and so does every instruction. -/
def Obligations.ConfigurationNeverChanges : Prop :=
  (∀ s t : State, step s = .next t → t.cfg = s.cfg) ∧
  (∀ (i : Instr) (s t : State), exec i s = .next t → t.cfg = s.cfg)

/-- 20_memory.md section 1 (an entry is never modified or removed once written): a step leaves every entry of the list
that stays in it, and only a NEW, or a reset, shortens the list. -/
def Obligations.ListOnlyGrowsExceptByNew : Prop :=
  ∀ s t : State, step s = .next t →
    (∀ i, i < s.segCount → i < t.segCount → segRead t i = segRead s i) ∧
    (t.segCount < s.segCount →
      (∃ rest, s.inbox = .reset :: rest) ∨
      ∃ r rest h, s.inbox = .command r :: rest ∧ decodeCommand r.command = .ok (.new h))

/-- 60_exceptions.md section 3 (STATUS is not sticky): the STATUS left by the command before changes nothing in what a
command does. -/
def Obligations.StatusIsNotSticky : Prop :=
  ∀ (i : Instr) (st : Status) (s : State), hostCommand i = true → exec i { s with status := st } = exec i s

/-- 10_state.md section 3 and 60_exceptions.md section 1: only a NEW that the host answers true makes a Builder, for the
handle it names. -/
def Obligations.OnlyNewMakesABuilder : Prop :=
  ∀ s t : State, step s = .next t → s.configured = false → t.configured = true →
    ∃ r rest h, s.inbox = .command r :: rest ∧ decodeCommand r.command = .ok (.new h) ∧
      r.answers.destExists = true ∧ t.dest = h

/-- 70_reset_and_hazards.md section 1 and 93_implementation_defined.md I6, I7: what DEST holds without a Builder and what
the store holds outside the list is never observed. Two states that differ only there take steps with the same outcome,
the same log and the same destinations, and differ only there again. -/
def Obligations.UnspecifiedValuesAreUnobservable : Prop :=
  ∀ s t : State, CoreInv s → CoreInv t → sameSpecified s t → sameOutcome (step s) (step t)

/-- 60_exceptions.md section 1 and 10_state.md section 3: the codes of STATUS and PHASE. -/
def Obligations.CodesOfStatusAndPhase : Prop :=
  [Status.ok, .invalidDestination, .ioError, .invalidParameter, .notConfigured, .sizeOverflow, .capacityExceeded,
    .illegalCommand].map statusCode = [0#8, 1#8, 2#8, 3#8, 4#8, 5#8, 6#8, 7#8] ∧
  (∀ st : Status, (statusCode st).toNat ≤ 7) ∧
  [Phase.neutral, .plus, .minus].map phaseCode = [0b00#2, 0b01#2, 0b10#2] ∧
  (∀ p : Phase, phaseCode p ≠ 0b11#2)
end

