-- ==== Sys2Proof/Laws/Decode.lean ====
section
/-! SUPPORT. The fields of an entry word (30_encoding.md R80), and the words of a command. -/

namespace Sys2Proof

theorem entryWord_getLsbD (k : Bool) (d : Word64) (n : BitVec 32) (i : Nat) (h : i < 128) :
    (entryWord k d n).getLsbD i =
      if i = 0 then k else if i < 32 then false else if i < 64 then n.getLsbD (i - 32) else d.getLsbD (i - 64) := by
  have hk : (if k = true then 1#128 else 0#128).getLsbD i = (decide (i = 0) && k) := by
    cases k <;> simp [BitVec.getLsbD_one]
  unfold entryWord
  simp only [BitVec.getLsbD_or, BitVec.getLsbD_shiftLeft, BitVec.getLsbD_setWidth, hk, h, decide_true, Bool.true_and]
  by_cases h0 : i = 0
  · subst h0; simp
  · by_cases h32 : i < 32
    · simp [h0, h32, show i < 64 by omega]
    · by_cases h64 : i < 64
      · have : i - 32 < 128 := by omega
        simp [h0, h32, h64, this]
      · have h1 : i - 64 < 128 := by omega
        have h2 : i - 32 < 128 := by omega
        have h3 : n.getLsbD (i - 32) = false := BitVec.getLsbD_of_ge n _ (by omega)
        simp [h0, h32, h64, h1, h2, h3]

@[simp] theorem entryKind_entryWord (k : Bool) (d : Word64) (n : BitVec 32) : entryKind (entryWord k d n) = k := by
  unfold entryKind
  rw [entryWord_getLsbD _ _ _ _ (by omega), if_pos rfl]

@[simp] theorem entryReserved_entryWord (k : Bool) (d : Word64) (n : BitVec 32) :
    entryReserved (entryWord k d n) = 0#31 := by
  refine BitVec.eq_of_getLsbD_eq fun i hi => ?_
  simp only [entryReserved, BitVec.getLsbD_extractLsb', hi, decide_true, Bool.true_and, BitVec.getLsbD_zero]
  rw [entryWord_getLsbD _ _ _ _ (by omega), if_neg (by omega), if_pos (by omega)]

@[simp] theorem entryLength_entryWord (k : Bool) (d : Word64) (n : BitVec 32) :
    entryLength (entryWord k d n) = n := by
  refine BitVec.eq_of_getLsbD_eq fun i hi => ?_
  simp only [entryLength, BitVec.getLsbD_extractLsb', hi, decide_true, Bool.true_and]
  rw [entryWord_getLsbD _ _ _ _ (by omega), if_neg (by omega), if_neg (by omega), if_pos (by omega)]
  congr 1
  omega

@[simp] theorem entryDivisor_entryWord (k : Bool) (d : Word64) (n : BitVec 32) :
    entryDivisor (entryWord k d n) = d := by
  refine BitVec.eq_of_getLsbD_eq fun i hi => ?_
  simp only [entryDivisor, BitVec.getLsbD_extractLsb', hi, decide_true, Bool.true_and]
  rw [entryWord_getLsbD _ _ _ _ (by omega), if_neg (by omega), if_neg (by omega), if_neg (by omega)]
  congr 1
  omega

/-- What a Tone's entry satisfies of R82. -/
theorem entryWf_tone (d : Word64) (n : BitVec 32) (h : Instr.toneDivisorOk d = true) :
    entryWf (entryWord true d n) = true := by simp [entryWf, h]

/-- What a Silence's entry satisfies of R82. -/
theorem entryWf_silence (n : BitVec 32) : entryWf (entryWord false 0#64 n) = true := by simp [entryWf]

/-- An unused operand is accepted exactly when it is zero. -/
theorem unusedOperand_ok_iff (w : Word64) (i j : Instr) : unusedOperand w i = .ok j ↔ w = 0#64 ∧ i = j := by
  unfold unusedOperand; split <;> simp_all

end Sys2Proof
end

