-- ==== Sys2Proof/Laws/Memory.lean ====
section
/-! SUPPORT. The laws of the sparse store: reading after writing, the canonical form, and that equal readings of two
canonical stores make them equal data. -/

namespace Sys2Proof.Machine

variable {α : Type}

@[simp] theorem Memory.get_nil (i : Nat) : Memory.get ([] : Memory α) i = none := rfl

theorem Memory.get_cons (k i : Nat) (v : α) (m : Memory α) :
    Memory.get ((k, v) :: m) i = if i = k then some v else m.get i := rfl

@[simp] theorem Memory.wf_nil : Memory.wf ([] : Memory α) = true := rfl

@[simp] theorem Memory.wf_singleton (p : Nat × α) : Memory.wf [p] = true := rfl

/-- A write is read back. -/
@[simp] theorem Memory.get_set_same (m : Memory α) (i : Nat) (x : α) : (m.set i x).get i = some x := by
  induction m with
  | nil => simp [Memory.set, Memory.get_cons]
  | cons p m ih =>
    obtain ⟨k, v⟩ := p
    unfold Memory.set
    split
    · simp [Memory.get_cons]
    · split
      · simp [Memory.get_cons]
      · simp [Memory.get_cons, *]

/-- A write leaves every other index alone. -/
theorem Memory.get_set_other (m : Memory α) (i j : Nat) (x : α) (h : j ≠ i) : (m.set i x).get j = m.get j := by
  induction m with
  | nil => simp [Memory.set, Memory.get_cons, h]
  | cons p m ih =>
    obtain ⟨k, v⟩ := p
    unfold Memory.set
    split
    · simp [Memory.get_cons, h]
    · split
      · next hk => subst hk; simp [Memory.get_cons, h]
      · simp [Memory.get_cons, ih]

/-- The canonical form as a statement about the tail and every index in it. -/
theorem Memory.wf_cons_iff (k : Nat) (v : α) (m : Memory α) :
    Memory.wf ((k, v) :: m) = true ↔ m.wf = true ∧ ∀ i x, m.get i = some x → k < i := by
  induction m generalizing k v with
  | nil => simp
  | cons p m ih =>
    obtain ⟨k', v'⟩ := p
    simp only [Memory.wf, Bool.and_eq_true, decide_eq_true_eq]
    constructor
    · rintro ⟨hlt, hwf⟩
      refine ⟨hwf, fun i x hx => ?_⟩
      rw [Memory.get_cons] at hx
      split at hx
      · omega
      · exact Nat.lt_trans hlt (((ih k' v').mp hwf).2 i x hx)
    · rintro ⟨hwf, hall⟩
      exact ⟨hall k' v' (by simp [Memory.get_cons]), hwf⟩

/-- Every write keeps the canonical form. -/
theorem Memory.set_wf (m : Memory α) (i : Nat) (x : α) (h : m.wf = true) : (m.set i x).wf = true := by
  induction m with
  | nil => rfl
  | cons p m ih =>
    obtain ⟨k, v⟩ := p
    have hk := (Memory.wf_cons_iff k v m).mp h
    unfold Memory.set
    split
    · next hlt =>
      refine (Memory.wf_cons_iff i x _).mpr ⟨h, fun j y hy => ?_⟩
      rw [Memory.get_cons] at hy
      split at hy
      · omega
      · exact Nat.lt_trans hlt (hk.2 j y hy)
    · split
      · next heq => subst heq; exact (Memory.wf_cons_iff i x m).mpr hk
      · refine (Memory.wf_cons_iff k v _).mpr ⟨ih hk.1, fun j y hy => ?_⟩
        by_cases hj : j = i
        · omega
        · exact hk.2 j y (by rw [← Memory.get_set_other m i j x hj]; exact hy)

/-- Two canonical stores that read alike are the same data. -/
theorem Memory.eq_of_get_eq (m n : Memory α) (hm : m.wf = true) (hn : n.wf = true)
    (h : ∀ i, m.get i = n.get i) : m = n := by
  induction m generalizing n with
  | nil =>
    cases n with
    | nil => rfl
    | cons q n => obtain ⟨k, v⟩ := q; have := h k; simp [Memory.get_cons] at this
  | cons p m ih =>
    obtain ⟨k, v⟩ := p
    have hkm := (Memory.wf_cons_iff k v m).mp hm
    cases n with
    | nil => have := h k; simp [Memory.get_cons] at this
    | cons q n =>
      obtain ⟨k', v'⟩ := q
      have hkn := (Memory.wf_cons_iff k' v' n).mp hn
      have hkk : k = k' := by
        by_contra hne
        have h1 := h k
        have h2 := h k'
        simp only [Memory.get_cons, if_true, hne, Ne.symm hne, if_false] at h1 h2
        have := hkn.2 k v h1.symm
        have := hkm.2 k' v' h2
        omega
      subst hkk
      have hv := h k
      simp only [Memory.get_cons, if_true, Option.some.injEq] at hv
      subst hv
      refine congrArg _ (ih n hkm.1 hkn.1 fun i => ?_)
      by_cases hi : i = k
      · subst hi
        cases hmi : Memory.get m i with
        | some y => exact absurd (hkm.2 i y hmi) (Nat.lt_irrefl i)
        | none =>
          cases hni : Memory.get n i with
          | some y => exact absurd (hkn.2 i y hni) (Nat.lt_irrefl i)
          | none => rfl
      · have := h i
        simpa [Memory.get_cons, hi] using this

end Sys2Proof.Machine
end

