-- ==== Sys2Proof/Laws/Operands.lean ====
section
/-! SUPPORT. The bit pattern of a datum reads back as the datum (30_encoding.md R76). -/

namespace Sys2Proof.Machine

/-- The middle field of a 64-bit pattern. -/
theorem exponentField (a : BitVec 1) (b : BitVec 11) (c : BitVec 52) : (a ++ b ++ c).extractLsb' 52 11 = b := by
  apply BitVec.eq_of_getLsbD_eq
  intro i hi
  rw [BitVec.getLsbD_extractLsb', BitVec.getLsbD_append, BitVec.getLsbD_append]
  simp [hi]

theorem b64fraction_finite (neg : Bool) (m : Nat) (e : Int) :
    b64fraction (b64bits (.finite neg m e)) = m % 2 ^ 52 := by
  simp only [b64fraction, b64bits]
  rw [BitVec.extractLsb'_append_eq_of_add_le (by omega)]
  simp

theorem b64exponent_finite (neg : Bool) (m : Nat) (e : Int) (h : finiteDatum m e) :
    b64exponent (b64bits (.finite neg m e)) = if m < 2 ^ 52 then 0 else (e + 1075).toNat := by
  obtain ⟨-, h2, h3, -⟩ := h
  simp only [b64exponent, b64bits, exponentField]
  split
  · rfl
  · simp only [BitVec.toNat_ofInt]
    omega

theorem b64sign_finite (neg : Bool) (m : Nat) (e : Int) : b64sign (b64bits (.finite neg m e)) = neg := by
  simp only [b64sign, b64bits]
  rw [BitVec.getLsbD_append, BitVec.getLsbD_append]
  cases neg <;> simp

/-- The pattern of a finite datum reads back as it. -/
theorem b64val_b64bits_finite (neg : Bool) (m : Nat) (e : Int) (h : finiteDatum m e) :
    b64val (b64bits (.finite neg m e)) = .finite neg m e := by
  unfold b64val
  rw [b64fraction_finite, b64exponent_finite neg m e h, b64sign_finite]
  obtain ⟨h1, h2, h3, h4⟩ := h
  by_cases hm : m < 2 ^ 52
  · have : e = -1074 := by omega
    rw [if_pos hm, if_neg (by omega), if_pos rfl, Nat.mod_eq_of_lt hm, this]
  · rw [if_neg hm, if_neg (by omega), if_neg (by omega)]
    congr 1 <;> omega

/-- So does the pattern of an infinity. -/
theorem b64val_b64bits_infinity (neg : Bool) : b64val (b64bits (.infinity neg)) = .infinity neg := by
  cases neg <;> decide

end Sys2Proof.Machine
end

