-- ==== Sys2Proof/Laws/State.lean ====
section
/-! SUPPORT. One lemma for each field and each named update of State, so that no proof unfolds a record update. -/

namespace Sys2Proof.Machine

/-! ### respond -/

@[simp] theorem respond_cfg (st : Status) (s : State) : (respond st s).cfg = s.cfg := rfl
@[simp] theorem respond_configured (st : Status) (s : State) : (respond st s).configured = s.configured := rfl
@[simp] theorem respond_dest (st : Status) (s : State) : (respond st s).dest = s.dest := rfl
@[simp] theorem respond_segCount (st : Status) (s : State) : (respond st s).segCount = s.segCount := rfl
@[simp] theorem respond_seg (st : Status) (s : State) : (respond st s).seg = s.seg := rfl
@[simp] theorem respond_phase (st : Status) (s : State) : (respond st s).phase = s.phase := rfl
@[simp] theorem respond_status (st : Status) (s : State) : (respond st s).status = st := rfl
@[simp] theorem respond_segIdx (st : Status) (s : State) : (respond st s).segIdx = s.segIdx := rfl
@[simp] theorem respond_samples (st : Status) (s : State) : (respond st s).samples = s.samples := rfl
@[simp] theorem respond_tmp (st : Status) (s : State) : (respond st s).tmp = s.tmp := rfl
@[simp] theorem respond_trace (st : Status) (s : State) : (respond st s).trace = s.trace := rfl
@[simp] theorem respond_answers (st : Status) (s : State) : (respond st s).answers = s.answers := rfl
@[simp] theorem respond_inbox (st : Status) (s : State) : (respond st s).inbox = s.inbox := rfl
@[simp] theorem respond_sinks (st : Status) (s : State) : (respond st s).sinks = s.sinks := rfl
@[simp] theorem respond_log (st : Status) (s : State) : (respond st s).log = s.log ++ [.status st] := rfl

/-! ### askDestExists -/

@[simp] theorem askDestExists_cfg (h : Word64) (s : State) : (askDestExists h s).cfg = s.cfg := rfl
@[simp] theorem askDestExists_configured (h : Word64) (s : State) : (askDestExists h s).configured = s.configured := rfl
@[simp] theorem askDestExists_dest (h : Word64) (s : State) : (askDestExists h s).dest = s.dest := rfl
@[simp] theorem askDestExists_segCount (h : Word64) (s : State) : (askDestExists h s).segCount = s.segCount := rfl
@[simp] theorem askDestExists_seg (h : Word64) (s : State) : (askDestExists h s).seg = s.seg := rfl
@[simp] theorem askDestExists_phase (h : Word64) (s : State) : (askDestExists h s).phase = s.phase := rfl
@[simp] theorem askDestExists_status (h : Word64) (s : State) : (askDestExists h s).status = s.status := rfl
@[simp] theorem askDestExists_segIdx (h : Word64) (s : State) : (askDestExists h s).segIdx = s.segIdx := rfl
@[simp] theorem askDestExists_samples (h : Word64) (s : State) : (askDestExists h s).samples = s.samples := rfl
@[simp] theorem askDestExists_tmp (h : Word64) (s : State) : (askDestExists h s).tmp = s.tmp := rfl
@[simp] theorem askDestExists_trace (h : Word64) (s : State) : (askDestExists h s).trace = s.trace := rfl
@[simp] theorem askDestExists_answers (h : Word64) (s : State) : (askDestExists h s).answers = s.answers := rfl
@[simp] theorem askDestExists_inbox (h : Word64) (s : State) : (askDestExists h s).inbox = s.inbox := rfl
@[simp] theorem askDestExists_sinks (h : Word64) (s : State) : (askDestExists h s).sinks = s.sinks := rfl
@[simp] theorem askDestExists_log (h : Word64) (s : State) : (askDestExists h s).log = s.log ++ [.destExists h s.answers.destExists] := rfl

/-! ### callSinkReplace -/

@[simp] theorem callSinkReplace_cfg (h : Word64) (out : List Byte) (s : State) : (callSinkReplace h out s).cfg = s.cfg := rfl
@[simp] theorem callSinkReplace_configured (h : Word64) (out : List Byte) (s : State) : (callSinkReplace h out s).configured = s.configured := rfl
@[simp] theorem callSinkReplace_dest (h : Word64) (out : List Byte) (s : State) : (callSinkReplace h out s).dest = s.dest := rfl
@[simp] theorem callSinkReplace_segCount (h : Word64) (out : List Byte) (s : State) : (callSinkReplace h out s).segCount = s.segCount := rfl
@[simp] theorem callSinkReplace_seg (h : Word64) (out : List Byte) (s : State) : (callSinkReplace h out s).seg = s.seg := rfl
@[simp] theorem callSinkReplace_phase (h : Word64) (out : List Byte) (s : State) : (callSinkReplace h out s).phase = s.phase := rfl
@[simp] theorem callSinkReplace_status (h : Word64) (out : List Byte) (s : State) : (callSinkReplace h out s).status = s.status := rfl
@[simp] theorem callSinkReplace_segIdx (h : Word64) (out : List Byte) (s : State) : (callSinkReplace h out s).segIdx = s.segIdx := rfl
@[simp] theorem callSinkReplace_samples (h : Word64) (out : List Byte) (s : State) : (callSinkReplace h out s).samples = s.samples := rfl
@[simp] theorem callSinkReplace_tmp (h : Word64) (out : List Byte) (s : State) : (callSinkReplace h out s).tmp = s.tmp := rfl
@[simp] theorem callSinkReplace_trace (h : Word64) (out : List Byte) (s : State) : (callSinkReplace h out s).trace = s.trace := rfl
@[simp] theorem callSinkReplace_answers (h : Word64) (out : List Byte) (s : State) : (callSinkReplace h out s).answers = s.answers := rfl
@[simp] theorem callSinkReplace_inbox (h : Word64) (out : List Byte) (s : State) : (callSinkReplace h out s).inbox = s.inbox := rfl
@[simp] theorem callSinkReplace_sinks (h : Word64) (out : List Byte) (s : State) : (callSinkReplace h out s).sinks = s.sinks.set h.toNat (sinkContent s.answers.sinkReplace out) := rfl
@[simp] theorem callSinkReplace_log (h : Word64) (out : List Byte) (s : State) : (callSinkReplace h out s).log = s.log ++ [.sinkReplace h out s.answers.sinkReplace] := rfl

/-! ### emitTrace -/

@[simp] theorem emitTrace_cfg (s : State) : (emitTrace s).cfg = s.cfg := rfl
@[simp] theorem emitTrace_configured (s : State) : (emitTrace s).configured = s.configured := rfl
@[simp] theorem emitTrace_dest (s : State) : (emitTrace s).dest = s.dest := rfl
@[simp] theorem emitTrace_segCount (s : State) : (emitTrace s).segCount = s.segCount := rfl
@[simp] theorem emitTrace_seg (s : State) : (emitTrace s).seg = s.seg := rfl
@[simp] theorem emitTrace_phase (s : State) : (emitTrace s).phase = s.phase := rfl
@[simp] theorem emitTrace_status (s : State) : (emitTrace s).status = s.status := rfl
@[simp] theorem emitTrace_segIdx (s : State) : (emitTrace s).segIdx = s.segIdx := rfl
@[simp] theorem emitTrace_samples (s : State) : (emitTrace s).samples = s.samples := rfl
@[simp] theorem emitTrace_tmp (s : State) : (emitTrace s).tmp = s.tmp := rfl
@[simp] theorem emitTrace_trace (s : State) : (emitTrace s).trace = s.trace := rfl
@[simp] theorem emitTrace_answers (s : State) : (emitTrace s).answers = s.answers := rfl
@[simp] theorem emitTrace_inbox (s : State) : (emitTrace s).inbox = s.inbox := rfl
@[simp] theorem emitTrace_sinks (s : State) : (emitTrace s).sinks = s.sinks := rfl
@[simp] theorem emitTrace_log (s : State) : (emitTrace s).log = s.log ++ [.phaseTrace s.trace] := rfl

/-! ### applyReset -/

@[simp] theorem applyReset_cfg (s : State) : (applyReset s).cfg = s.cfg := rfl
@[simp] theorem applyReset_configured (s : State) : (applyReset s).configured = false := rfl
@[simp] theorem applyReset_dest (s : State) : (applyReset s).dest = 0#64 := rfl
@[simp] theorem applyReset_segCount (s : State) : (applyReset s).segCount = 0 := rfl
@[simp] theorem applyReset_seg (s : State) : (applyReset s).seg = [] := rfl
@[simp] theorem applyReset_phase (s : State) : (applyReset s).phase = .neutral := rfl
@[simp] theorem applyReset_status (s : State) : (applyReset s).status = .ok := rfl
@[simp] theorem applyReset_segIdx (s : State) : (applyReset s).segIdx = none := rfl
@[simp] theorem applyReset_samples (s : State) : (applyReset s).samples = [] := rfl
@[simp] theorem applyReset_tmp (s : State) : (applyReset s).tmp = [] := rfl
@[simp] theorem applyReset_trace (s : State) : (applyReset s).trace = [] := rfl
@[simp] theorem applyReset_answers (s : State) : (applyReset s).answers = ⟨false, .fail []⟩ := rfl
@[simp] theorem applyReset_inbox (s : State) : (applyReset s).inbox = s.inbox := rfl
@[simp] theorem applyReset_sinks (s : State) : (applyReset s).sinks = s.sinks := rfl
@[simp] theorem applyReset_log (s : State) : (applyReset s).log = s.log := rfl

/-! ### discardBuilder -/

@[simp] theorem discardBuilder_cfg (s : State) : (discardBuilder s).cfg = s.cfg := rfl
@[simp] theorem discardBuilder_configured (s : State) : (discardBuilder s).configured = false := rfl
@[simp] theorem discardBuilder_dest (s : State) : (discardBuilder s).dest = s.dest := rfl
@[simp] theorem discardBuilder_segCount (s : State) : (discardBuilder s).segCount = 0 := rfl
@[simp] theorem discardBuilder_seg (s : State) : (discardBuilder s).seg = s.seg := rfl
@[simp] theorem discardBuilder_phase (s : State) : (discardBuilder s).phase = s.phase := rfl
@[simp] theorem discardBuilder_status (s : State) : (discardBuilder s).status = s.status := rfl
@[simp] theorem discardBuilder_segIdx (s : State) : (discardBuilder s).segIdx = s.segIdx := rfl
@[simp] theorem discardBuilder_samples (s : State) : (discardBuilder s).samples = s.samples := rfl
@[simp] theorem discardBuilder_tmp (s : State) : (discardBuilder s).tmp = s.tmp := rfl
@[simp] theorem discardBuilder_trace (s : State) : (discardBuilder s).trace = s.trace := rfl
@[simp] theorem discardBuilder_answers (s : State) : (discardBuilder s).answers = s.answers := rfl
@[simp] theorem discardBuilder_inbox (s : State) : (discardBuilder s).inbox = s.inbox := rfl
@[simp] theorem discardBuilder_sinks (s : State) : (discardBuilder s).sinks = s.sinks := rfl
@[simp] theorem discardBuilder_log (s : State) : (discardBuilder s).log = s.log := rfl

/-! ### adoptDestination -/

@[simp] theorem adoptDestination_cfg (h : Word64) (s : State) : (adoptDestination h s).cfg = s.cfg := rfl
@[simp] theorem adoptDestination_configured (h : Word64) (s : State) : (adoptDestination h s).configured = true := rfl
@[simp] theorem adoptDestination_dest (h : Word64) (s : State) : (adoptDestination h s).dest = h := rfl
@[simp] theorem adoptDestination_segCount (h : Word64) (s : State) : (adoptDestination h s).segCount = s.segCount := rfl
@[simp] theorem adoptDestination_seg (h : Word64) (s : State) : (adoptDestination h s).seg = s.seg := rfl
@[simp] theorem adoptDestination_phase (h : Word64) (s : State) : (adoptDestination h s).phase = s.phase := rfl
@[simp] theorem adoptDestination_status (h : Word64) (s : State) : (adoptDestination h s).status = s.status := rfl
@[simp] theorem adoptDestination_segIdx (h : Word64) (s : State) : (adoptDestination h s).segIdx = s.segIdx := rfl
@[simp] theorem adoptDestination_samples (h : Word64) (s : State) : (adoptDestination h s).samples = s.samples := rfl
@[simp] theorem adoptDestination_tmp (h : Word64) (s : State) : (adoptDestination h s).tmp = s.tmp := rfl
@[simp] theorem adoptDestination_trace (h : Word64) (s : State) : (adoptDestination h s).trace = s.trace := rfl
@[simp] theorem adoptDestination_answers (h : Word64) (s : State) : (adoptDestination h s).answers = s.answers := rfl
@[simp] theorem adoptDestination_inbox (h : Word64) (s : State) : (adoptDestination h s).inbox = s.inbox := rfl
@[simp] theorem adoptDestination_sinks (h : Word64) (s : State) : (adoptDestination h s).sinks = s.sinks := rfl
@[simp] theorem adoptDestination_log (h : Word64) (s : State) : (adoptDestination h s).log = s.log := rfl

/-! ### countSegment -/

@[simp] theorem countSegment_cfg (s : State) : (countSegment s).cfg = s.cfg := rfl
@[simp] theorem countSegment_configured (s : State) : (countSegment s).configured = s.configured := rfl
@[simp] theorem countSegment_dest (s : State) : (countSegment s).dest = s.dest := rfl
@[simp] theorem countSegment_segCount (s : State) : (countSegment s).segCount = s.segCount + 1 := rfl
@[simp] theorem countSegment_seg (s : State) : (countSegment s).seg = s.seg := rfl
@[simp] theorem countSegment_phase (s : State) : (countSegment s).phase = s.phase := rfl
@[simp] theorem countSegment_status (s : State) : (countSegment s).status = s.status := rfl
@[simp] theorem countSegment_segIdx (s : State) : (countSegment s).segIdx = s.segIdx := rfl
@[simp] theorem countSegment_samples (s : State) : (countSegment s).samples = s.samples := rfl
@[simp] theorem countSegment_tmp (s : State) : (countSegment s).tmp = s.tmp := rfl
@[simp] theorem countSegment_trace (s : State) : (countSegment s).trace = s.trace := rfl
@[simp] theorem countSegment_answers (s : State) : (countSegment s).answers = s.answers := rfl
@[simp] theorem countSegment_inbox (s : State) : (countSegment s).inbox = s.inbox := rfl
@[simp] theorem countSegment_sinks (s : State) : (countSegment s).sinks = s.sinks := rfl
@[simp] theorem countSegment_log (s : State) : (countSegment s).log = s.log := rfl

/-! ### generateTone -/

@[simp] theorem generateTone_cfg (d n : Nat) (s : State) : (generateTone d n s).cfg = s.cfg := rfl
@[simp] theorem generateTone_configured (d n : Nat) (s : State) : (generateTone d n s).configured = s.configured := rfl
@[simp] theorem generateTone_dest (d n : Nat) (s : State) : (generateTone d n s).dest = s.dest := rfl
@[simp] theorem generateTone_segCount (d n : Nat) (s : State) : (generateTone d n s).segCount = s.segCount := rfl
@[simp] theorem generateTone_seg (d n : Nat) (s : State) : (generateTone d n s).seg = s.seg := rfl
@[simp] theorem generateTone_phase (d n : Nat) (s : State) : (generateTone d n s).phase = s.phase := rfl
@[simp] theorem generateTone_status (d n : Nat) (s : State) : (generateTone d n s).status = s.status := rfl
@[simp] theorem generateTone_segIdx (d n : Nat) (s : State) : (generateTone d n s).segIdx = s.segIdx := rfl
@[simp] theorem generateTone_samples (d n : Nat) (s : State) : (generateTone d n s).samples = s.samples := rfl
@[simp] theorem generateTone_tmp (d n : Nat) (s : State) : (generateTone d n s).tmp = tone s.cfg d n := rfl
@[simp] theorem generateTone_trace (d n : Nat) (s : State) : (generateTone d n s).trace = s.trace := rfl
@[simp] theorem generateTone_answers (d n : Nat) (s : State) : (generateTone d n s).answers = s.answers := rfl
@[simp] theorem generateTone_inbox (d n : Nat) (s : State) : (generateTone d n s).inbox = s.inbox := rfl
@[simp] theorem generateTone_sinks (d n : Nat) (s : State) : (generateTone d n s).sinks = s.sinks := rfl
@[simp] theorem generateTone_log (d n : Nat) (s : State) : (generateTone d n s).log = s.log := rfl

/-! ### fixUpPhase -/

@[simp] theorem fixUpPhase_cfg (s : State) : (fixUpPhase s).cfg = s.cfg := rfl
@[simp] theorem fixUpPhase_configured (s : State) : (fixUpPhase s).configured = s.configured := rfl
@[simp] theorem fixUpPhase_dest (s : State) : (fixUpPhase s).dest = s.dest := rfl
@[simp] theorem fixUpPhase_segCount (s : State) : (fixUpPhase s).segCount = s.segCount := rfl
@[simp] theorem fixUpPhase_seg (s : State) : (fixUpPhase s).seg = s.seg := rfl
@[simp] theorem fixUpPhase_phase (s : State) : (fixUpPhase s).phase = phaseAfterTone s.cfg s.tmp s.phase := rfl
@[simp] theorem fixUpPhase_status (s : State) : (fixUpPhase s).status = s.status := rfl
@[simp] theorem fixUpPhase_segIdx (s : State) : (fixUpPhase s).segIdx = s.segIdx := rfl
@[simp] theorem fixUpPhase_samples (s : State) : (fixUpPhase s).samples = s.samples := rfl
@[simp] theorem fixUpPhase_tmp (s : State) : (fixUpPhase s).tmp = s.tmp := rfl
@[simp] theorem fixUpPhase_trace (s : State) : (fixUpPhase s).trace = s.trace := rfl
@[simp] theorem fixUpPhase_answers (s : State) : (fixUpPhase s).answers = s.answers := rfl
@[simp] theorem fixUpPhase_inbox (s : State) : (fixUpPhase s).inbox = s.inbox := rfl
@[simp] theorem fixUpPhase_sinks (s : State) : (fixUpPhase s).sinks = s.sinks := rfl
@[simp] theorem fixUpPhase_log (s : State) : (fixUpPhase s).log = s.log := rfl

/-! ### appendTmp -/

@[simp] theorem appendTmp_cfg (s : State) : (appendTmp s).cfg = s.cfg := rfl
@[simp] theorem appendTmp_configured (s : State) : (appendTmp s).configured = s.configured := rfl
@[simp] theorem appendTmp_dest (s : State) : (appendTmp s).dest = s.dest := rfl
@[simp] theorem appendTmp_segCount (s : State) : (appendTmp s).segCount = s.segCount := rfl
@[simp] theorem appendTmp_seg (s : State) : (appendTmp s).seg = s.seg := rfl
@[simp] theorem appendTmp_phase (s : State) : (appendTmp s).phase = s.phase := rfl
@[simp] theorem appendTmp_status (s : State) : (appendTmp s).status = s.status := rfl
@[simp] theorem appendTmp_segIdx (s : State) : (appendTmp s).segIdx = s.segIdx := rfl
@[simp] theorem appendTmp_samples (s : State) : (appendTmp s).samples = s.samples ++ s.tmp := rfl
@[simp] theorem appendTmp_tmp (s : State) : (appendTmp s).tmp = [] := rfl
@[simp] theorem appendTmp_trace (s : State) : (appendTmp s).trace = s.trace := rfl
@[simp] theorem appendTmp_answers (s : State) : (appendTmp s).answers = s.answers := rfl
@[simp] theorem appendTmp_inbox (s : State) : (appendTmp s).inbox = s.inbox := rfl
@[simp] theorem appendTmp_sinks (s : State) : (appendTmp s).sinks = s.sinks := rfl
@[simp] theorem appendTmp_log (s : State) : (appendTmp s).log = s.log := rfl

/-! ### emitSilence -/

@[simp] theorem emitSilence_cfg (n : Nat) (s : State) : (emitSilence n s).cfg = s.cfg := rfl
@[simp] theorem emitSilence_configured (n : Nat) (s : State) : (emitSilence n s).configured = s.configured := rfl
@[simp] theorem emitSilence_dest (n : Nat) (s : State) : (emitSilence n s).dest = s.dest := rfl
@[simp] theorem emitSilence_segCount (n : Nat) (s : State) : (emitSilence n s).segCount = s.segCount := rfl
@[simp] theorem emitSilence_seg (n : Nat) (s : State) : (emitSilence n s).seg = s.seg := rfl
@[simp] theorem emitSilence_phase (n : Nat) (s : State) : (emitSilence n s).phase = .neutral := rfl
@[simp] theorem emitSilence_status (n : Nat) (s : State) : (emitSilence n s).status = s.status := rfl
@[simp] theorem emitSilence_segIdx (n : Nat) (s : State) : (emitSilence n s).segIdx = s.segIdx := rfl
@[simp] theorem emitSilence_samples (n : Nat) (s : State) : (emitSilence n s).samples = s.samples ++ List.replicate n 0#16 := rfl
@[simp] theorem emitSilence_tmp (n : Nat) (s : State) : (emitSilence n s).tmp = s.tmp := rfl
@[simp] theorem emitSilence_trace (n : Nat) (s : State) : (emitSilence n s).trace = s.trace := rfl
@[simp] theorem emitSilence_answers (n : Nat) (s : State) : (emitSilence n s).answers = s.answers := rfl
@[simp] theorem emitSilence_inbox (n : Nat) (s : State) : (emitSilence n s).inbox = s.inbox := rfl
@[simp] theorem emitSilence_sinks (n : Nat) (s : State) : (emitSilence n s).sinks = s.sinks := rfl
@[simp] theorem emitSilence_log (n : Nat) (s : State) : (emitSilence n s).log = s.log := rfl

/-! ### beginPass -/

@[simp] theorem beginPass_cfg (s : State) : (beginPass s).cfg = s.cfg := rfl
@[simp] theorem beginPass_configured (s : State) : (beginPass s).configured = s.configured := rfl
@[simp] theorem beginPass_dest (s : State) : (beginPass s).dest = s.dest := rfl
@[simp] theorem beginPass_segCount (s : State) : (beginPass s).segCount = s.segCount := rfl
@[simp] theorem beginPass_seg (s : State) : (beginPass s).seg = s.seg := rfl
@[simp] theorem beginPass_phase (s : State) : (beginPass s).phase = .neutral := rfl
@[simp] theorem beginPass_status (s : State) : (beginPass s).status = s.status := rfl
@[simp] theorem beginPass_segIdx (s : State) : (beginPass s).segIdx = some 0 := rfl
@[simp] theorem beginPass_samples (s : State) : (beginPass s).samples = [] := rfl
@[simp] theorem beginPass_tmp (s : State) : (beginPass s).tmp = s.tmp := rfl
@[simp] theorem beginPass_trace (s : State) : (beginPass s).trace = [] := rfl
@[simp] theorem beginPass_answers (s : State) : (beginPass s).answers = s.answers := rfl
@[simp] theorem beginPass_inbox (s : State) : (beginPass s).inbox = s.inbox := rfl
@[simp] theorem beginPass_sinks (s : State) : (beginPass s).sinks = s.sinks := rfl
@[simp] theorem beginPass_log (s : State) : (beginPass s).log = s.log := rfl

/-! ### advanceSegment -/

@[simp] theorem advanceSegment_cfg (s : State) : (advanceSegment s).cfg = s.cfg := rfl
@[simp] theorem advanceSegment_configured (s : State) : (advanceSegment s).configured = s.configured := rfl
@[simp] theorem advanceSegment_dest (s : State) : (advanceSegment s).dest = s.dest := rfl
@[simp] theorem advanceSegment_segCount (s : State) : (advanceSegment s).segCount = s.segCount := rfl
@[simp] theorem advanceSegment_seg (s : State) : (advanceSegment s).seg = s.seg := rfl
@[simp] theorem advanceSegment_phase (s : State) : (advanceSegment s).phase = s.phase := rfl
@[simp] theorem advanceSegment_status (s : State) : (advanceSegment s).status = s.status := rfl
@[simp] theorem advanceSegment_segIdx (s : State) : (advanceSegment s).segIdx = s.segIdx.map (· + 1) := rfl
@[simp] theorem advanceSegment_samples (s : State) : (advanceSegment s).samples = s.samples := rfl
@[simp] theorem advanceSegment_tmp (s : State) : (advanceSegment s).tmp = s.tmp := rfl
@[simp] theorem advanceSegment_trace (s : State) : (advanceSegment s).trace = s.trace ++ [s.phase] := rfl
@[simp] theorem advanceSegment_answers (s : State) : (advanceSegment s).answers = s.answers := rfl
@[simp] theorem advanceSegment_inbox (s : State) : (advanceSegment s).inbox = s.inbox := rfl
@[simp] theorem advanceSegment_sinks (s : State) : (advanceSegment s).sinks = s.sinks := rfl
@[simp] theorem advanceSegment_log (s : State) : (advanceSegment s).log = s.log := rfl

/-! ### endPass -/

@[simp] theorem endPass_cfg (s : State) : (endPass s).cfg = s.cfg := rfl
@[simp] theorem endPass_configured (s : State) : (endPass s).configured = s.configured := rfl
@[simp] theorem endPass_dest (s : State) : (endPass s).dest = s.dest := rfl
@[simp] theorem endPass_segCount (s : State) : (endPass s).segCount = s.segCount := rfl
@[simp] theorem endPass_seg (s : State) : (endPass s).seg = s.seg := rfl
@[simp] theorem endPass_phase (s : State) : (endPass s).phase = .neutral := rfl
@[simp] theorem endPass_status (s : State) : (endPass s).status = s.status := rfl
@[simp] theorem endPass_segIdx (s : State) : (endPass s).segIdx = none := rfl
@[simp] theorem endPass_samples (s : State) : (endPass s).samples = [] := rfl
@[simp] theorem endPass_tmp (s : State) : (endPass s).tmp = [] := rfl
@[simp] theorem endPass_trace (s : State) : (endPass s).trace = [] := rfl
@[simp] theorem endPass_answers (s : State) : (endPass s).answers = s.answers := rfl
@[simp] theorem endPass_inbox (s : State) : (endPass s).inbox = s.inbox := rfl
@[simp] theorem endPass_sinks (s : State) : (endPass s).sinks = s.sinks := rfl
@[simp] theorem endPass_log (s : State) : (endPass s).log = s.log := rfl

/-! ### takeInput -/

@[simp] theorem takeInput_cfg (rest : List HostInput) (s : State) : (takeInput rest s).cfg = s.cfg := rfl
@[simp] theorem takeInput_configured (rest : List HostInput) (s : State) : (takeInput rest s).configured = s.configured := rfl
@[simp] theorem takeInput_dest (rest : List HostInput) (s : State) : (takeInput rest s).dest = s.dest := rfl
@[simp] theorem takeInput_segCount (rest : List HostInput) (s : State) : (takeInput rest s).segCount = s.segCount := rfl
@[simp] theorem takeInput_seg (rest : List HostInput) (s : State) : (takeInput rest s).seg = s.seg := rfl
@[simp] theorem takeInput_phase (rest : List HostInput) (s : State) : (takeInput rest s).phase = s.phase := rfl
@[simp] theorem takeInput_status (rest : List HostInput) (s : State) : (takeInput rest s).status = s.status := rfl
@[simp] theorem takeInput_segIdx (rest : List HostInput) (s : State) : (takeInput rest s).segIdx = s.segIdx := rfl
@[simp] theorem takeInput_samples (rest : List HostInput) (s : State) : (takeInput rest s).samples = s.samples := rfl
@[simp] theorem takeInput_tmp (rest : List HostInput) (s : State) : (takeInput rest s).tmp = s.tmp := rfl
@[simp] theorem takeInput_trace (rest : List HostInput) (s : State) : (takeInput rest s).trace = s.trace := rfl
@[simp] theorem takeInput_answers (rest : List HostInput) (s : State) : (takeInput rest s).answers = s.answers := rfl
@[simp] theorem takeInput_inbox (rest : List HostInput) (s : State) : (takeInput rest s).inbox = rest := rfl
@[simp] theorem takeInput_sinks (rest : List HostInput) (s : State) : (takeInput rest s).sinks = s.sinks := rfl
@[simp] theorem takeInput_log (rest : List HostInput) (s : State) : (takeInput rest s).log = s.log := rfl

/-! ### withAnswers -/

@[simp] theorem withAnswers_cfg (a : Answers) (s : State) : (withAnswers a s).cfg = s.cfg := rfl
@[simp] theorem withAnswers_configured (a : Answers) (s : State) : (withAnswers a s).configured = s.configured := rfl
@[simp] theorem withAnswers_dest (a : Answers) (s : State) : (withAnswers a s).dest = s.dest := rfl
@[simp] theorem withAnswers_segCount (a : Answers) (s : State) : (withAnswers a s).segCount = s.segCount := rfl
@[simp] theorem withAnswers_seg (a : Answers) (s : State) : (withAnswers a s).seg = s.seg := rfl
@[simp] theorem withAnswers_phase (a : Answers) (s : State) : (withAnswers a s).phase = s.phase := rfl
@[simp] theorem withAnswers_status (a : Answers) (s : State) : (withAnswers a s).status = s.status := rfl
@[simp] theorem withAnswers_segIdx (a : Answers) (s : State) : (withAnswers a s).segIdx = s.segIdx := rfl
@[simp] theorem withAnswers_samples (a : Answers) (s : State) : (withAnswers a s).samples = s.samples := rfl
@[simp] theorem withAnswers_tmp (a : Answers) (s : State) : (withAnswers a s).tmp = s.tmp := rfl
@[simp] theorem withAnswers_trace (a : Answers) (s : State) : (withAnswers a s).trace = s.trace := rfl
@[simp] theorem withAnswers_answers (a : Answers) (s : State) : (withAnswers a s).answers = a := rfl
@[simp] theorem withAnswers_inbox (a : Answers) (s : State) : (withAnswers a s).inbox = s.inbox := rfl
@[simp] theorem withAnswers_sinks (a : Answers) (s : State) : (withAnswers a s).sinks = s.sinks := rfl
@[simp] theorem withAnswers_log (a : Answers) (s : State) : (withAnswers a s).log = s.log := rfl

end Sys2Proof.Machine
end

