-- ==== Sys2Proof/Laws/Ops.lean ====
section
/-! SUPPORT. One lemma for each shared operation: everything it can do. -/

namespace Sys2Proof.Machine

/-! ### Sequencing and the ends of a command -/

@[simp] theorem andThen_next (s : State) (f : State → Result) : andThen (.next s) f = f s := rfl

@[simp] theorem andThen_fault (x : Fault) (f : State → Result) : andThen (.fault x) f = .fault x := rfl

@[simp] theorem andThen_refused (x : Refusal) (f : State → Result) : andThen (.refused x) f = .refused x := rfl

/-- A sequence answers a next state exactly when both parts do. -/
theorem andThen_eq_next_iff (r : Result) (f : State → Result) (t : State) :
    andThen r f = .next t ↔ ∃ s, r = .next s ∧ f s = .next t := by
  cases r <;> simp

theorem andThen_assoc (r : Result) (f g : State → Result) :
    andThen (andThen r f) g = andThen r (fun s => andThen (f s) g) := by
  cases r <;> rfl

@[simp] theorem raise_eq (st : Status) (s : State) : raise st s = .next (respond st s) := rfl

@[simp] theorem returnOk_eq (s : State) : returnOk s = .next (respond .ok s) := rfl

/-- Outside a WRITE the idle check passes. -/
theorem whenIdle_idle (s : State) (k : Result) (h : s.segIdx = none) : whenIdle s k = k := by
  simp [whenIdle, h]

/-- Inside a WRITE it refuses. -/
theorem whenIdle_busy (s : State) (k : Result) (i : Nat) (h : s.segIdx = some i) :
    whenIdle s k = .refused .overlappingCommand := by
  simp [whenIdle, h]

/-- With a Builder the check passes. -/
theorem whenConfigured_yes (s : State) (k : Result) (h : s.configured = true) : whenConfigured s k = k := by
  simp [whenConfigured, h]

/-- Without one it raises NOT_CONFIGURED. -/
theorem whenConfigured_no (s : State) (k : Result) (h : s.configured = false) :
    whenConfigured s k = .next (respond .notConfigured s) := by
  simp [whenConfigured, h]

/-! ### The append step -/

/-- Everything the append step does. -/
theorem append_cases (e : Entry) (s : State) :
    (s.segCount = s.cfg.maxSegments ∧ append e s = .next (respond .capacityExceeded s)) ∨
    (s.segCount < s.cfg.maxSegments ∧
      append e s = .next (respond .ok (countSegment { s with seg := s.seg.set s.segCount e }))) ∨
    (s.cfg.maxSegments < s.segCount ∧ append e s = .fault .segmentOutOfStore) := by
  rcases Nat.lt_trichotomy s.segCount s.cfg.maxSegments with h | h | h
  · exact .inr (.inl ⟨h, by simp [append, segWrite, h, Nat.ne_of_lt h]⟩)
  · exact .inl ⟨h, by simp [append, h]⟩
  · exact .inr (.inr ⟨h, by simp [append, segWrite, Nat.ne_of_gt h, Nat.not_lt.mpr (Nat.le_of_lt h)]⟩)

/-- Everything the append of a Tone does. -/
theorem appendTone_cases (d n : Option Nat) (s : State) :
    (∃ d' n', d = some d' ∧ n = some n' ∧
      appendTone d n s = append (entryWord true (BitVec.ofNat 64 d') (BitVec.ofNat 32 n')) s) ∨
    ((d = none ∨ n = none) ∧ appendTone d n s = .next (respond .invalidParameter s)) := by
  cases d <;> cases n <;> simp [appendTone]

/-- Everything the append of a Silence does. -/
theorem appendSilence_cases (n : Option Nat) (s : State) :
    (∃ n', n = some n' ∧ appendSilence n s = append (entryWord false 0#64 (BitVec.ofNat 32 n')) s) ∨
    (n = none ∧ appendSilence n s = .next (respond .invalidParameter s)) := by
  cases n <;> simp [appendSilence]

/-! ### The end of a WRITE -/

/-- Everything the end of a WRITE does: the host's answer only chooses the status. -/
theorem finishWrite_eq (s : State) :
    finishWrite s = .next (respond (match s.answers.sinkReplace with | .ok => .ok | .fail _ => .ioError)
      (endPass (emitTrace (callSinkReplace s.dest (encodeStream s.samples) s)))) := by
  unfold finishWrite
  cases s.answers.sinkReplace <;> rfl

/-! ### Requests -/

/-- A request that does not overlap and decodes runs its instruction. -/
theorem runRequest_ok (run : Instr → State → Result) (r : Request) (s : State) (i : Instr)
    (ho : r.overlaps = false) (hd : decodeCommand r.command = .ok i) :
    runRequest run r s = run i (withAnswers r.answers s) := by
  simp [runRequest, ho, hd]

/-- A request that does not overlap and does not decode raises ILLEGAL_COMMAND. -/
theorem runRequest_illegal (run : Instr → State → Result) (r : Request) (s : State) (x : DecodeError)
    (ho : r.overlaps = false) (hd : decodeCommand r.command = .error x) :
    runRequest run r s = .next (respond .illegalCommand (withAnswers r.answers s)) := by
  simp [runRequest, ho, hd]

/-- A request that overlaps is refused. -/
theorem runRequest_overlaps (run : Instr → State → Result) (r : Request) (s : State) (ho : r.overlaps = true) :
    runRequest run r s = .refused .overlappingCommand := by
  simp [runRequest, ho]

end Sys2Proof.Machine
end

