-- ==== Sys2Proof/Laws/Synthesizer.lean ====
section
/-! SUPPORT. What a turn of the synthesis pass does, and the lengths of what it makes. -/

namespace Sys2Proof.Machine

@[simp] theorem tone_length (c : Config) (d n : Nat) : (tone c d n).length = n := by simp [tone]

/-- Sample `k` of a tone (41_synthesizer.md R148). -/
theorem tone_getElem (c : Config) (d n k : Nat) (h : k < (tone c d n).length) :
    (tone c d n)[k] = toneSample c d k := by simp [tone]

@[simp] theorem le16_length (v : BitVec 16) : (le16 v).length = 2 := rfl

@[simp] theorem le32_length (v : BitVec 32) : (le32 v).length = 4 := rfl

@[simp] theorem header_length (n : Nat) : (header n).length = 44 := rfl

@[simp] theorem payload_nil : payload [] = [] := rfl

@[simp] theorem payload_cons (x : Sample) (xs : List Sample) : payload (x :: xs) = le16 x ++ payload xs := rfl

/-- Everything SEG_TONE does. -/
theorem execSegTone_cases (d : Word64) (n : BitVec 32) (s : State) :
    (d.toNat = 0 ∧ n.toNat ≠ 0 ∧ execSegTone d n s = .fault .zeroDivisor) ∨
    ((d.toNat ≠ 0 ∨ n.toNat = 0) ∧
      execSegTone d n s = .next (appendTmp (fixUpPhase (generateTone d.toNat n.toNat s)))) := by
  unfold execSegTone
  split <;> rename_i h
  · exact .inl ⟨h.1, h.2, rfl⟩
  · exact .inr ⟨by omega, rfl⟩

/-- The operation an entry selects is the meaning of the instruction it decodes to (30_encoding.md R81). -/
theorem runEntry_eq_exec (e : Entry) (s : State) : runEntry e s = exec (decodeEntry e) s := by
  unfold runEntry decodeEntry
  split <;> rfl

theorem execEntry_eq_runEntry : execEntry = runEntry := by
  funext e s
  exact (runEntry_eq_exec e s).symm

/-- A turn that reads nothing stops. -/
theorem segmentTurn_absent (run : Entry → State → Result) (i : Nat) (s : State) (h : segRead s i = none) :
    segmentTurn run i s = .fault .segmentAbsent := by
  simp [segmentTurn, h]

/-- A turn that reads an entry runs it, then the trace and SEG_IDX advance. -/
theorem segmentTurn_present (run : Entry → State → Result) (i : Nat) (s : State) (e : Entry)
    (h : segRead s i = some e) :
    segmentTurn run i s = andThen (run e s) (fun s1 => .next (advanceSegment s1)) := by
  simp [segmentTurn, h]

/-- What running an entry can do: the fields that a segment operation never writes, TMP empty after a tone as before it,
and the number of samples it appends. -/
theorem runEntry_frame (e : Entry) (s t : State) (h : runEntry e s = .next t) :
    t.cfg = s.cfg ∧ t.configured = s.configured ∧ t.dest = s.dest ∧ t.segCount = s.segCount ∧ t.seg = s.seg ∧
      t.status = s.status ∧ t.segIdx = s.segIdx ∧ t.trace = s.trace ∧ t.answers = s.answers ∧ t.inbox = s.inbox ∧
      t.sinks = s.sinks ∧ t.log = s.log ∧ t.samples.length = s.samples.length + (entryLength e).toNat := by
  unfold runEntry at h
  split at h
  · obtain ⟨-, -, h1⟩ | ⟨-, h1⟩ := execSegTone_cases (entryDivisor e) (entryLength e) s
    · rw [h1] at h; cases h
    · rw [h1] at h; cases h; simp
  · cases h; simp

end Sys2Proof.Machine
end

