-- ==== Sys2Proof/Laws/Pass.lean ====
section
/-! SUPPORT. What the synthesis pass makes of a list: the two tone samples, the phase of a tone, one entry, and the turns
of the loop from any point on. -/

namespace Sys2Proof.Machine

theorem highSample_toInt (c : Config) (h : c.WF) : (highSample c).toInt = c.ampHigh := by
  have := h.2.1
  unfold highSample
  rw [BitVec.toInt_eq_toNat_cond, BitVec.toNat_ofNat, Nat.mod_eq_of_lt (by omega), if_pos (by omega)]

theorem lowSample_toInt (c : Config) (h : c.WF) : (lowSample c).toInt = -c.ampHigh := by
  have := h.2.1
  unfold lowSample
  rw [BitVec.toInt_ofInt, Int.bmod_def, if_neg] <;> omega

theorem high_ne_low (c : Config) (h : c.WF) : highSample c ≠ lowSample c := by
  intro he
  have h1 := highSample_toInt c h
  rw [he, lowSample_toInt c h] at h1
  have := h.1
  omega

theorem tone_getLast (c : Config) (d n : Nat) (h : 1 ≤ n) :
    (tone c d n).getLast? = some (toneSample c d (n - 1)) := by
  obtain ⟨m, rfl⟩ : ∃ m, n = m + 1 := ⟨n - 1, by omega⟩
  simp [tone, List.range_succ]

/-- The phase fix-up on the closed form (41_synthesizer.md R146, R149). -/
theorem phaseAfterTone_tone (c : Config) (hc : c.WF) (d n : Nat) (p : Phase) :
    phaseAfterTone c (tone c d n) p =
      if n = 0 then p else if (n - 1) / d % 2 = 0 then .plus else .minus := by
  unfold phaseAfterTone
  by_cases h : n = 0
  · subst h
    simp [tone]
  · rw [tone_getLast c d n (by omega)]
    simp only [h, if_false, toneSample]
    have := high_ne_low c hc
    split <;> simp [this.symm]

@[simp] theorem segmentSamples_length (c : Config) (e : Entry) :
    (segmentSamples c e).length = (entryLength e).toNat := by
  unfold segmentSamples
  split <;> simp

/-- Every sample of a segment is one of the three values (41_synthesizer.md R153). -/
theorem segmentSamples_values (c : Config) (e : Entry) (x : Sample) (hx : x ∈ segmentSamples c e) :
    x = 0#16 ∨ x = highSample c ∨ x = lowSample c := by
  unfold segmentSamples at hx
  split at hx
  · simp only [tone, List.mem_map, toneSample] at hx
    obtain ⟨k, -, rfl⟩ := hx
    split <;> simp
  · simp at hx
    simp [hx]

/-- Everything a well-formed entry does, by the closed forms. -/
theorem runEntry_spec (e : Entry) (s : State) (hc : s.cfg.WF) (he : entryWf e = true) (ht : s.tmp = []) :
    runEntry e s =
      .next { s with samples := s.samples ++ segmentSamples s.cfg e, phase := segmentPhase e s.phase } := by
  unfold runEntry
  split <;> rename_i hk
  · have hd : (entryDivisor e).toNat ≠ 0 := by
      simp [entryWf, hk, Instr.toneDivisorOk] at he
      omega
    obtain ⟨h, -⟩ | ⟨-, h⟩ := execSegTone_cases (entryDivisor e) (entryLength e) s
    · exact absurd h hd
    · rw [h]
      congr 1
      simp only [appendTmp, fixUpPhase, generateTone, phaseAfterTone_tone _ hc, segmentSamples, segmentPhase, hk,
        if_true]
      cases s
      simp_all
  · simp only [execSegSilence, emitSilence, segmentSamples, segmentPhase, hk]
    rfl

/-- Everything `n` turns of the loop do from SEG_IDX = `i` on (41_synthesizer.md R140). -/
theorem passTurns_spec (n : Nat) : ∀ (i : Nat) (s : State), s.cfg.WF → s.tmp = [] → s.segIdx = some i →
    (∀ j, i ≤ j → j < i + n → ∃ e, s.seg.get j = some e ∧ entryWf e = true) →
    passTurns n i s = .next { s with
      samples := s.samples ++ listSamples s.cfg ((List.range' i n).filterMap (segRead s))
      trace := s.trace ++ listTrace ((List.range' i n).filterMap (segRead s)) s.phase
      phase := (listTrace ((List.range' i n).filterMap (segRead s)) s.phase).getLast?.getD s.phase
      segIdx := some (i + n) } := by
  induction n with
  | zero =>
    intro i s _ _ h _
    cases s
    simp at h
    subst h
    simp [passTurns, listSamples, listTrace]
  | succ n ih =>
    intro i s hc ht hi hl
    obtain ⟨e, he, hw⟩ := hl i (le_refl _) (by omega)
    have hr : segRead s i = some e := he
    rw [passTurns, segmentTurn_present _ _ _ _ hr, runEntry_spec e s hc hw ht]
    simp only [andThen_next]
    rw [ih (i + 1) _ (by exact hc) (by exact ht) (by simp [advanceSegment, hi])
      (by intro j h1 h2; exact hl j (by omega) (by omega))]
    congr 1
    have hf : (List.range' i (n + 1)).filterMap (segRead s) =
        e :: (List.range' (i + 1) n).filterMap (segRead s) := by
      simp [List.range'_succ, hr]
    have hs : ∀ a b c d, segRead { s with samples := a, phase := b, trace := c, segIdx := d } = segRead s :=
      fun _ _ _ _ => rfl
    simp only [advanceSegment, hs, hf, listSamples, listTrace, List.flatMap_cons, List.getLast?_cons]
    simp only [List.append_assoc, List.singleton_append, Option.getD_some, Nat.add_assoc, Nat.add_comm 1 n]

/-- The size check passes exactly when the total size fits its field (42_encoder.md R181). -/
theorem sizeOverflows_eq_false_iff (n : Nat) : sizeOverflows n = false ↔ 2 * n + 44 ≤ 2 ^ 32 - 1 := by
  rw [sizeOverflows, decide_eq_false_iff_not]
  simp only [totalSize, bytesPerSample, headerBytes]
  omega

/-- When every entry of the list is written, the sum of the lengths exists, at every prefix. -/
theorem lengthSum_isSome (m : Memory Entry) (n : Nat) (h : ∀ i, i < n → (m.get i).isSome = true) :
    ∃ k, lengthSum m n = some k := by
  induction n with
  | zero => exact ⟨0, rfl⟩
  | succ n ih =>
    obtain ⟨k, hk⟩ := ih (fun i hi => h i (by omega))
    obtain ⟨e, he⟩ := Option.isSome_iff_exists.mp (h n (by omega))
    exact ⟨_, by simp [lengthSum, hk, he]; rfl⟩

end Sys2Proof.Machine
end

