-- ==== Sys2Proof/Laws/PerInstr.lean ====
section
/-! SUPPORT. Statements about every instruction as syntax, one lemma for each constructor. -/

namespace Sys2Proof.Laws.Canonical

open Sys2Proof Sys2Proof.Machine

/-- A well-formed instruction has a canonical encoding: a command that is not illegal (30_encoding.md R85), an entry that
meets R82. -/
def Statement (i : Instr) : Prop := i.wellFormed = true → canonicalEncoding (encode i) = true

theorem new (handle : Word64) : Statement (.new handle) := by
  intro _
  simp [encode, canonicalEncoding, decodeCommand, Command.reserved, Command.opcode, unusedOperand]

theorem addTone (divisor durationMs : Word64) : Statement (.addTone divisor durationMs) := by
  intro _
  simp [encode, canonicalEncoding, decodeCommand, Command.reserved, Command.opcode]

theorem addToneFreq (freqHz durationMs : Word64) : Statement (.addToneFreq freqHz durationMs) := by
  intro _
  simp [encode, canonicalEncoding, decodeCommand, Command.reserved, Command.opcode]

theorem addSilence (durationMs : Word64) : Statement (.addSilence durationMs) := by
  intro _
  simp [encode, canonicalEncoding, decodeCommand, Command.reserved, Command.opcode, unusedOperand]

theorem write : Statement .write := by
  intro _
  simp [encode, canonicalEncoding, decodeCommand, Command.reserved, Command.opcode, unusedOperand]

theorem segSilence (length : BitVec 32) : Statement (.segSilence length) := fun _ => entryWf_silence length

theorem segTone (divisor : Word64) (length : BitVec 32) : Statement (.segTone divisor length) :=
  fun h => entryWf_tone divisor length h

end Sys2Proof.Laws.Canonical
end

