-- ==== Sys2Proof/Tests/Slice0.lean ====
section
/-! SUPPORT. The model's own tests: the checks of WellFormed, words written out from the encodings of the spec, one step
for each instruction with results from 95_test_vectors.md or worked by hand from the rules, and, for each statement that
has hypotheses, a state and operands that meet them. -/

namespace Sys2Proof.Tests

open Sys2Proof Sys2Proof.Machine

/-! ### WellFormed: an ill-formed term for each check -/

theorem test_wellFormed_refuses_divisor_zero : (Instr.segTone 0#64 4#32).wellFormed = false := by decide

theorem test_wellFormed_refuses_divisor_above_divMax :
    (Instr.segTone 0x8000000000000000#64 4#32).wellFormed = false := by decide

theorem test_wellFormed_accepts_divMax : (Instr.segTone 0x7FFFFFFFFFFFFFFF#64 10#32).wellFormed = true := by decide

/-- R82: an entry with a reserved bit set, a Silence with a divisor, a Tone without one. -/
theorem test_entryWf_refuses :
    entryWf 0x00000000000000020000000600000003#128 = false ∧ entryWf 0x00000000000000020000000600000000#128 = false ∧
      entryWf 0x00000000000000000000000600000001#128 = false := by decide

/-! ### Decoding: words from 30_encoding.md R71, R80, R84, R91, 40_builder.md R104 to R106, 95_test_vectors.md 2.3 -/

theorem test_decode_new : decodeCommand ⟨0#56 ++ 0b00000001#8, 0x1#64, 0#64⟩ = .ok (.new 1#64) := by decide

theorem test_decode_addTone :
    decodeCommand ⟨0#56 ++ 0b00000010#8, 0x200#64, 0x4049000000000000#64⟩ =
      .ok (.addTone 512#64 0x4049000000000000#64) := by decide

theorem test_decode_addToneFreq :
    decodeCommand ⟨0#56 ++ 0b00000011#8, 0x407B800000000000#64, 0x406F400000000000#64⟩ =
      .ok (.addToneFreq 0x407B800000000000#64 0x406F400000000000#64) := by decide

theorem test_decode_addSilence :
    decodeCommand ⟨0#56 ++ 0b00000100#8, 0#64, 0x406F400000000000#64⟩ = .ok (.addSilence 0x406F400000000000#64) := by
  decide

theorem test_decode_write : decodeCommand ⟨0#56 ++ 0b00000101#8, 0#64, 0#64⟩ = .ok .write := by decide

/-- `SIL 250` appends this entry (R106): DIVISOR 0, LENGTH 0x5DC0, RSV 0, KIND 0. -/
theorem test_decode_segSilence :
    decodeEntry (0#64 ++ 0x00005DC0#32 ++ 0#31 ++ 0#1) = .segSilence 24000#32 := by decide

/-- `TONE 512, 50` appends this entry (R104): DIVISOR 0x200, LENGTH 0x12C0, RSV 0, KIND 1. -/
theorem test_decode_segTone :
    decodeEntry (0x0000000000000200#64 ++ 0x000012C0#32 ++ 0#31 ++ 1#1) = .segTone 512#64 4800#32 := by decide

/-- The illegal rows of 95_test_vectors.md 2.3, by name. -/
theorem test_decode_illegal :
    decodeCommand ⟨0#64, 0#64, 0#64⟩ = .error .illegalOpcode ∧
      decodeCommand ⟨0x6#64, 0#64, 0#64⟩ = .error .illegalOpcode ∧
      decodeCommand ⟨0xFF#64, 0#64, 0#64⟩ = .error .illegalOpcode ∧
      decodeCommand ⟨0x105#64, 0#64, 0#64⟩ = .error .reservedNotZero ∧
      decodeCommand ⟨0x8000000000000001#64, 1#64, 0#64⟩ = .error .reservedNotZero ∧
      decodeCommand ⟨0x4#64, 1#64, 0x3FF0000000000000#64⟩ = .error .unusedOperandNotZero ∧
      decodeCommand ⟨0x5#64, 0#64, 1#64⟩ = .error .unusedOperandNotZero ∧
      decodeCommand ⟨0x1#64, 7#64, 1#64⟩ = .error .unusedOperandNotZero := by decide

/-- `WRITE` on the transport: 05 and 23 zero bytes (R75). A byte short is no command. -/
theorem test_decode_bytes :
    decodeBytes (0x05#8 :: List.replicate 24 0#8) = .ok (.write, [0#8]) ∧
      decodeBytes (0x05#8 :: List.replicate 22 0#8) = .error .tooFewBytes := by decide

/-- The table's rows as the host numbers them. -/
theorem test_decode_table_rows :
    decodeTableWord 64 1 = some (.new 0#64) ∧ decodeTableWord 64 2 = some (.addTone 0#64 0#64) ∧
      decodeTableWord 64 3 = some (.addToneFreq 0#64 0#64) ∧ decodeTableWord 64 4 = some (.addSilence 0#64) ∧
      decodeTableWord 64 5 = some .write ∧ decodeTableWord 8 0 = some (.segSilence 0#32) ∧
      decodeTableWord 8 1 = some (.segTone 0#64 0#32) := by decide

/-! ### States -/

/-- A Builder for destination 7 with an empty list, AMP_HIGH = 1000 (the illustrative value of 95_test_vectors.md). -/
def built (mode : NumericMode) : State :=
  { State.resetOf ⟨1000, mode, 3⟩ with configured := true, dest := 7#64, answers := ⟨true, .ok⟩ }

/-- The same with a list of two segments: SEG_TONE(2, 6) and SEG_SILENCE(3). -/
def listed : State :=
  { built .exact with
    segCount := 2
    seg := [(0, 0x00000000000000020000000600000001#128), (1, 0x00000000000000000000000300000000#128)] }

/-- The same with a full store. -/
def full : State := { listed with cfg := ⟨1000, .exact, 2⟩ }

/-- One field of the next state, if there is one. -/
def ofNext {α : Type} (r : Result) (f : State → α) : Option α :=
  match r with
  | .next s => some (f s)
  | .fault _ => none
  | .refused _ => none

/-- The same of what the machine's own type calls it. -/
theorem ofNext_next {α : Type} (s : State) (f : State → α) : ofNext (.next s) f = some (f s) := rfl

/-! ### One step each -/

/-- 95_test_vectors.md 2.4, third row: a NEW discards the old list. -/
theorem test_new_replaces :
    ofNext (exec (.new 2#64) listed) (fun t => (t.configured, t.dest, t.segCount, t.status)) =
      some (true, 2#64, 0, .ok) := by decide

/-- 2.4, fourth row: a failing NEW leaves no Builder. -/
theorem test_new_fails :
    ofNext (exec (.new 2#64) { listed with answers := ⟨false, .ok⟩ })
      (fun t => (t.configured, t.segCount, t.status)) = some (false, 0, .invalidDestination) := by decide

/-- 2.5: `TONE 512, 50`. -/
theorem test_addTone :
    ofNext (exec (.addTone 0x200#64 0x4049000000000000#64) (built .binary64)) (fun t => (t.segCount, t.seg)) =
      some (1, [(0, 0x0000000000000200000012C000000001#128)]) := by decide +kernel

/-- 2.5: `TONE -9223372036854775808, 1`. -/
theorem test_addTone_negative :
    ofNext (exec (.addTone 0x8000000000000000#64 0x3FF0000000000000#64) (built .exact))
      (fun t => (t.segCount, t.status)) = some (0, .invalidParameter) := by decide +kernel

/-- 2.5: `TONEF 440, 250`. -/
theorem test_addToneFreq :
    ofNext (exec (.addToneFreq 0x407B800000000000#64 0x406F400000000000#64) (built .exact))
      (fun t => (t.segCount, t.seg)) = some (1, [(0, 0x000000000000006D00005DC000000001#128)]) := by decide +kernel

/-- 2.2: 0.1 Hz in BINARY64 mode gives the divisor 480000 = 0x75300. -/
theorem test_addToneFreq_binary64 :
    ofNext (exec (.addToneFreq 0x3FB999999999999A#64 0x3FF0000000000000#64) (built .binary64))
      (fun t => t.seg) = some [(0, 0x00000000000753000000006000000001#128)] := by decide +kernel

/-- Program P6: 9 ms is 863 = 0x35F samples in BINARY64 mode. -/
theorem test_addSilence_binary64 :
    ofNext (exec (.addSilence 0x4022000000000000#64) (built .binary64)) (fun t => t.seg) =
      some [(0, 0x00000000000000000000035F00000000#128)] := by decide +kernel

/-- 2.3: an invalid operand on a full store reports INVALID_PARAMETER, a valid one CAPACITY_EXCEEDED. -/
theorem test_addSilence_full :
    ofNext (exec (.addSilence 0xBFF0000000000000#64) full) (fun t => (t.segCount, t.status)) =
        some (2, .invalidParameter) ∧
      ofNext (exec (.addSilence 0#64) full) (fun t => (t.segCount, t.status)) = some (2, .capacityExceeded) := by
  decide +kernel

/-- WRITE of `H H L L H H 0 0 0`: 62 bytes, sizes 62 = 0x3E and 18 = 0x12, trace PLUS, NEUTRAL (as in program P4). -/
theorem test_write :
    ofNext (exec .write listed) (fun t => t.log) = some
      [.sinkReplace 7#64
        [0x52#8, 0x49#8, 0x46#8, 0x46#8, 0x3E#8, 0x00#8, 0x00#8, 0x00#8, 0x57#8, 0x41#8, 0x56#8, 0x45#8,
         0x66#8, 0x6D#8, 0x74#8, 0x20#8, 0x10#8, 0x00#8, 0x00#8, 0x00#8, 0x01#8, 0x00#8, 0x01#8, 0x00#8,
         0x00#8, 0x77#8, 0x01#8, 0x00#8, 0x00#8, 0xEE#8, 0x02#8, 0x00#8, 0x02#8, 0x00#8, 0x10#8, 0x00#8,
         0x64#8, 0x61#8, 0x74#8, 0x61#8, 0x12#8, 0x00#8, 0x00#8, 0x00#8,
         0xE8#8, 0x03#8, 0xE8#8, 0x03#8, 0x18#8, 0xFC#8, 0x18#8, 0xFC#8, 0xE8#8, 0x03#8, 0xE8#8, 0x03#8,
         0x00#8, 0x00#8, 0x00#8, 0x00#8, 0x00#8, 0x00#8] .ok,
       .phaseTrace [.plus, .neutral], .status .ok] := by decide +kernel

/-- Program P7: 2147483712 samples are too many. -/
theorem test_write_too_long :
    ofNext (exec .write { built .exact with segCount := 1, seg := [(0, 0x00000000000000008000004000000000#128)] })
      (fun t => (t.status, t.log)) = some (.sizeOverflow, [.status .sizeOverflow]) := by decide +kernel

/-- 95_test_vectors.md 2.6: SEG_SILENCE(3) after PLUS, SEG_SILENCE(0) after MINUS. -/
theorem test_segSilence :
    ofNext (exec (.segSilence 3#32) { listed with phase := .plus }) (fun t => (t.samples, t.phase)) =
        some ([0#16, 0#16, 0#16], .neutral) ∧
      ofNext (exec (.segSilence 0#32) { listed with phase := .minus }) (fun t => (t.samples, t.phase)) =
        some ([], .neutral) := by decide +kernel

/-- 2.6: SEG_TONE(3, 7) is `H H H L L L H`, PLUS. -/
theorem test_segTone :
    ofNext (exec (.segTone 3#64 7#32) listed) (fun t => (t.samples, t.phase)) =
      some ([1000#16, 1000#16, 1000#16, 0xFC18#16, 0xFC18#16, 0xFC18#16, 1000#16], .plus) := by decide +kernel

/-- 2.6: SEG_TONE(3, 0) keeps MINUS, SEG_TONE(2, 3) gives MINUS. -/
theorem test_segTone_phase :
    ofNext (exec (.segTone 3#64 0#32) { listed with phase := .minus }) (fun t => (t.samples, t.phase)) =
        some ([], .minus) ∧
      ofNext (exec (.segTone 2#64 3#32) listed) (fun t => t.phase) = some .minus := by decide +kernel

/-- 2.6: the reference algorithm's cycle counts and samples. -/
theorem test_reference_tone :
    cycleCount 2 6 = 7 ∧ cycleCount 3 7 = 5 ∧ cycleCount 512 4800 = 19 ∧ cycleCount 109 24000 = 441 ∧
      toneReference ⟨1000, .exact, 1⟩ 3 7 = tone ⟨1000, .exact, 1⟩ 3 7 := by decide +kernel

/-- Each table row's word runs as the first instruction after reset. -/
theorem test_first_step_after_reset :
    ofNext (step (State.reset.withFetchWord 64 1)) (fun t => (t.configured, t.status)) = some (true, .ok) ∧
      ofNext (step (State.reset.withFetchWord 64 2)) (fun t => t.status) = some .notConfigured ∧
      ofNext (step (State.reset.withFetchWord 64 3)) (fun t => t.status) = some .notConfigured ∧
      ofNext (step (State.reset.withFetchWord 64 4)) (fun t => t.status) = some .notConfigured ∧
      ofNext (step (State.reset.withFetchWord 64 5)) (fun t => t.status) = some .notConfigured ∧
      ofNext (step (State.reset.withFetchWord 8 0)) (fun t => (t.segIdx, t.trace)) = some (some 1, [.neutral]) ∧
      ofNext (step (State.reset.withFetchWord 8 1)) (fun t => (t.segIdx, t.trace)) = some (some 1, [.neutral]) := by
  decide +kernel

/-- A host input is taken one at a time: an illegal command, then a reset. -/
theorem test_host_inputs :
    ofNext (step { listed with inbox := [.command ⟨⟨0x105#64, 0#64, 0#64⟩, ⟨true, .ok⟩, false⟩, .reset] })
        (fun t => (t.status, t.segCount, t.inbox)) = some (.illegalCommand, 2, [.reset]) ∧
      ofNext (step { listed with inbox := [.reset] }) (fun t => (t.configured, t.segCount, t.cfg)) =
        some (false, 0, ⟨1000, .exact, 3⟩) := by decide +kernel

/-! ### Witnesses: a state and operands that meet the hypotheses of each statement that has any -/

/-- A request of `WRITE`. -/
def writeRequest : Request := ⟨⟨0x5#64, 0#64, 0#64⟩, ⟨true, .ok⟩, false⟩

/-- A request of `NEW 9`. -/
def newRequest : Request := ⟨⟨0x1#64, 9#64, 0#64⟩, ⟨true, .ok⟩, false⟩

/-- `listed` with a WRITE to run, then a reset. -/
def waiting : State := { listed with inbox := [.command writeRequest, .reset] }

/-- `listed` inside a WRITE, at its first segment. -/
def writing : State := beginPass listed

/-- `listed` inside a WRITE, past its last segment. -/
def written : State :=
  { listed with
    segIdx := some 2
    samples := [1000#16, 1000#16, 0xFC18#16, 0xFC18#16, 1000#16, 1000#16, 0#16, 0#16, 0#16]
    trace := [.plus, .neutral] }

/-- What is in the store of `listed`. -/
theorem listed_store (i : Nat) (e : Entry) (h : listed.seg.get i = some e) : i < 2 ∧ entryWf e = true := by
  simp only [listed, Memory.get_cons, Memory.get_nil] at h
  split at h
  · cases h; subst_vars; decide
  · split at h
    · cases h; subst_vars; decide
    · cases h

theorem listed_all_written (i : Nat) (h : i < 2) : (listed.seg.get i).isSome = true := by
  obtain rfl | rfl : i = 0 ∨ i = 1 := by omega
  · rfl
  · rfl

theorem listed_inv : CoreInv listed where
  cfgOk := by decide
  countInStore := by decide
  unconfiguredEmpty := by decide
  segWf := by decide
  storeOk i e h := ⟨by have := (listed_store i e h).1; exact Nat.lt_of_lt_of_le this (by decide),
    (listed_store i e h).2⟩
  listOk := listed_all_written
  sinksWf := by decide
  tmpEmpty := rfl
  sampleValues _ hx := absurd hx List.not_mem_nil
  phaseTraced := rfl
  idleClean _ := ⟨rfl, rfl, rfl⟩
  writing i h := by cases h

theorem waiting_inv : CoreInv waiting := { listed_inv with }

theorem writing_inv : CoreInv writing where
  cfgOk := by decide
  countInStore := by decide
  unconfiguredEmpty := by decide
  segWf := by decide
  storeOk := listed_inv.storeOk
  listOk := listed_inv.listOk
  sinksWf := by decide
  tmpEmpty := rfl
  sampleValues _ hx := absurd hx List.not_mem_nil
  phaseTraced := rfl
  idleClean h := by cases h
  writing i h := by
    cases h
    exact ⟨rfl, by decide, rfl, rfl, 9, by decide, by decide⟩

theorem witness_DecodeAndEncodeAgree :
    (canonicalEncoding (.entry 0x00000000000000020000000600000001#128) = true ∧
      decode (.entry 0x00000000000000020000000600000001#128) = .ok (.segTone 2#64 6#32)) ∧
    (canonicalEncoding (.command ⟨0x5#64, 0#64, 0#64⟩) = true ∧
      decode (.command ⟨0x5#64, 0#64, 0#64⟩) = .ok .write) := by decide

theorem witness_IllegalCommandsChangeStatusOnly :
    ∃ s : State, ∃ r : Request, s.segIdx = none ∧ s.inbox = [.command r] ∧ r.overlaps = false ∧
      illegalCommand r.command := by
  refine ⟨{ listed with inbox := [.command ⟨⟨0x6#64, 0#64, 0#64⟩, ⟨true, .ok⟩, false⟩] }, _, rfl, rfl, rfl, ?_⟩
  exact .inl (.inr (by decide))

/-- The boundary values of each clause: `-2^63 - 1`, `2^63`, `-2^63`, `2^63 - 1`, `2^64`, `2^64 - 1`. -/
theorem witness_AssemblerKeepsIntegers :
    (-(2 ^ 63) - 1 : Int) < -(2 ^ 63) ∧ (2 ^ 63 : Int) ≤ 2 ^ 63 ∧
    (-(2 ^ 63) : Int) ≤ -(2 ^ 63) ∧ (-(2 ^ 63) : Int) < 2 ^ 63 ∧
    (-(2 ^ 63) : Int) ≤ 2 ^ 63 - 1 ∧ (2 ^ 63 - 1 : Int) < 2 ^ 63 ∧
    2 ^ 64 ≤ (2 ^ 64 : Nat) ∧ (2 ^ 64 - 1 : Nat) < 2 ^ 64 := by decide

/-- Both clauses about a literal: one below the bound (0.1), and the bound itself. -/
theorem witness_AssembledLiteralsAreNearestData :
    (∃ x : Decimal, (x.digits : ℚ) * (10 : ℚ) ^ x.exp10 < (2 ^ 54 - 1) * 2 ^ 970) ∧
    ∃ x : Decimal, (2 ^ 54 - 1) * 2 ^ 970 = (x.digits : ℚ) * (10 : ℚ) ^ x.exp10 := by
  refine ⟨⟨⟨false, 1, -1⟩, ?_⟩, ⟨true, (2 ^ 54 - 1) * 2 ^ 970, 0⟩, ?_⟩
  · have : (1 : ℚ) ≤ 2 ^ 970 := one_le_pow₀ (by norm_num)
    generalize (2 : ℚ) ^ 970 = y at this ⊢
    norm_num
    linarith
  · rw [zpow_zero, mul_one, Nat.cast_mul, Nat.cast_pow]
    norm_num

theorem witness_StepRunsDecodedCommand :
    waiting.segIdx = none ∧ waiting.inbox = .command writeRequest :: [.reset] ∧ writeRequest.overlaps = false ∧
      decodeCommand writeRequest.command = .ok .write := by decide

theorem witness_StepRunsDecodedSegment :
    (∃ t, writing.segIdx = some 0 ∧ 0 < writing.segCount ∧
      segRead writing 0 = some 0x00000000000000020000000600000001#128 ∧
      exec (decodeEntry 0x00000000000000020000000600000001#128) writing = .next t) ∧
    (written.segIdx = some 2 ∧ written.segCount ≤ 2) :=
  ⟨⟨_, rfl, by decide, by decide, rfl⟩, rfl, by decide⟩

theorem witness_OverlappingCommandsAreRefused :
    (∃ s : State, ∃ r : Request, s.segIdx = none ∧ s.inbox = [.command r] ∧ r.overlaps = true) ∧
    (hostCommand .write = true ∧ writing.segIdx = some 0) :=
  ⟨⟨{ listed with inbox := [.command { writeRequest with overlaps := true }] }, _, rfl, rfl, rfl⟩, rfl, rfl⟩

theorem witness_IdleCoreKeepsItsState : listed.segIdx = none ∧ listed.inbox = [] := ⟨rfl, rfl⟩

theorem witness_ResetValues :
    ∃ s : State, s.segIdx = none ∧ s.inbox = .reset :: [.command writeRequest] :=
  ⟨{ listed with inbox := [.reset, .command writeRequest] }, rfl, rfl⟩

theorem witness_NewStartsABuilder :
    (listed.segIdx = none ∧ listed.answers.destExists = true) ∧
      (State.reset.segIdx = none ∧ State.reset.answers.destExists = false) := ⟨⟨rfl, rfl⟩, rfl, rfl⟩

theorem witness_CommandsNeedABuilder :
    (appendCommand (.addSilence 0#64) = true ∧ State.reset.segIdx = none ∧ State.reset.configured = false) ∧
      Instr.write = .write := ⟨⟨rfl, rfl, rfl⟩, rfl⟩

/-- 512 and 50 ms, 4800 samples (95_test_vectors.md E1). -/
theorem witness_AddToneAppendsATone :
    listed.segIdx = none ∧ listed.configured = true ∧ 1 ≤ sval64 0x200#64 ∧
      msToSamples listed.cfg.numericMode 0x4049000000000000#64 = some 4800 ∧
      listed.segCount < listed.cfg.maxSegments := by decide +kernel

/-- 440 Hz and 250 ms (E2). -/
theorem witness_AddToneFreqAppendsATone :
    listed.segIdx = none ∧ listed.configured = true ∧
      freqToDivisor listed.cfg.numericMode 0x407B800000000000#64 = some 109 ∧
      msToSamples listed.cfg.numericMode 0x406F400000000000#64 = some 24000 ∧
      listed.segCount < listed.cfg.maxSegments := by decide +kernel

theorem witness_AddSilenceAppendsASilence :
    listed.segIdx = none ∧ listed.configured = true ∧
      msToSamples listed.cfg.numericMode 0x8000000000000000#64 = some 0 ∧
      listed.segCount < listed.cfg.maxSegments := by decide +kernel

theorem witness_InvalidOperandsRaiseInvalidParameter :
    listed.segIdx = none ∧ listed.configured = true ∧ sval64 0#64 < 1 ∧
      freqToDivisor listed.cfg.numericMode 0x40F7700000000000#64 = none ∧
      msToSamples listed.cfg.numericMode 0xBFF0000000000000#64 = none := by decide +kernel

theorem witness_FullStoreRaisesCapacityExceeded :
    full.segIdx = none ∧ full.configured = true ∧ full.segCount = full.cfg.maxSegments ∧
      (msToSamples full.cfg.numericMode 0#64).isSome = true ∧ 1 ≤ sval64 1#64 ∧
      (freqToDivisor full.cfg.numericMode 0x40E7700000000000#64).isSome = true := by decide +kernel

theorem witness_FrequencyIsConvertedDivisor :
    freqToDivisor listed.cfg.numericMode 0x407B800000000000#64 = some 109 ∧
      freqToDivisor listed.cfg.numericMode 0#64 = none ∧ listed.segIdx = none := by decide +kernel

theorem witness_AppendIsAtomic :
    appendCommand (.addSilence 0#64) = true ∧ ∃ t, exec (.addSilence 0#64) listed = .next t := ⟨rfl, _, rfl⟩

theorem witness_BuilderCommandsOnlyBuild :
    (appendCommand (.addSilence 0#64) = true ∧ ∃ t, exec (.addSilence 0#64) listed = .next t) ∧
      ∃ t, exec (.new 3#64) listed = .next t := ⟨⟨rfl, _, rfl⟩, _, rfl⟩

theorem witness_RoundingIsToNearestEven : 0 < (Frac.mk 9 1000).den := by decide

theorem witness_SegToneIsTheReferenceAlgorithm :
    BitVec.getLsbD 0x00000000000000020000000600000001#128 0 = true ∧
    1 ≤ (1#64).toNat := by decide

theorem witness_ZeroDivisorToneStopsUnlessEmpty : (1#32).toNat ≠ 0 := by decide

theorem witness_ReferenceToneIsTheClosedForm :
    (1 ≤ (1#64).toNat ∧ 0 < (1#32).toNat) ∧ 1 ≤ 1 ∧ 0 < 1 := by decide

theorem witness_SegSilenceAppendsZeros : BitVec.getLsbD 0x00000000000000000000000300000000#128 0 = false := by decide

theorem witness_PhaseAfterSegmentTable :
    listed.cfg.WF ∧ entryWf 0x00000000000000020000000600000001#128 = true ∧
      ∃ t, exec (decodeEntry 0x00000000000000020000000600000001#128) listed = .next t := by
  refine ⟨by decide, by decide, ?_⟩
  exact ⟨_, rfl⟩

theorem witness_PhaseNeverSelectsSamples :
    (∃ t, exec (decodeEntry 0x00000000000000020000000600000001#128) listed = .next t) ∧
      entryKind 0x00000000000000020000000600000001#128 = true := ⟨⟨_, rfl⟩, by decide⟩

theorem witness_SampleValuesAreThree :
    listed.cfg.WF ∧ ∃ t, exec (decodeEntry 0x00000000000000000000000300000000#128) listed = .next t := by
  refine ⟨by decide, ?_⟩
  exact ⟨_, rfl⟩

theorem witness_ToneHasPeriodTwiceTheDivisor :
    listed.cfg.WF ∧ 1 ≤ 2 ∧ 0 + 2 * 2 < 5 ∧ 0 + 2 < 5 := by decide

theorem witness_PassEmitsEverySegment :
    CoreInv listed ∧ listed.segIdx = none ∧ 1 < listed.segCount ∧
      segRead listed 1 = some 0x00000000000000000000000300000000#128 := ⟨listed_inv, rfl, by decide, by decide⟩

theorem witness_TraceRecordsLastSample :
    CoreInv listed ∧ listed.segIdx = none ∧ (∃ t, synthesize listed = .next t) ∧
      (0 < listed.segCount ∧ segRead listed 0 = some 0x00000000000000020000000600000001#128 ∧
        entryKind 0x00000000000000020000000600000001#128 = true ∧
        1 ≤ (entryLength 0x00000000000000020000000600000001#128).toNat) ∧
      (1 < listed.segCount ∧ segRead listed 1 = some 0x00000000000000000000000300000000#128 ∧
        entryKind 0x00000000000000000000000300000000#128 = false) :=
  ⟨listed_inv, rfl, ⟨_, rfl⟩, by decide, by decide⟩

/-- Two instances that differ in NUMERIC_MODE, DEST and STATUS. -/
theorem witness_PassDependsOnListAndAmplitude :
    ∃ s t s' t' : State, s.cfg.ampHigh = t.cfg.ampHigh ∧ s.segCount = t.segCount ∧
      (∀ i, i < s.segCount → segRead s i = segRead t i) ∧ synthesize s = .next s' ∧ synthesize t = .next t' ∧
      s.cfg ≠ t.cfg := by
  refine ⟨listed, { listed with cfg := ⟨1000, .binary64, 9⟩, dest := 1#64, status := .ioError },
    _, _, rfl, rfl, fun i _ => rfl, rfl, rfl, by decide⟩

theorem witness_HeaderLayout : 2 * 0 + 44 ≤ 2 ^ 32 - 1 ∧ 2 * 2147483625 + 44 ≤ 2 ^ 32 - 1 := by decide

theorem witness_StreamRoundTrip : 2 * [1000#16, 0xFC18#16].length + 44 ≤ 2 ^ 32 - 1 := by decide

theorem witness_SampleOffsets : [1000#16, 0xFC18#16][1]? = some 0xFC18#16 := by decide

theorem witness_WriteDeliversTheList :
    CoreInv listed ∧ listed.segIdx = none ∧ listed.configured = true ∧
      lengthSum listed.seg listed.segCount = some 9 ∧ 2 * 9 + 44 ≤ 2 ^ 32 - 1 ∧ listed.answers.sinkReplace = .ok :=
  ⟨listed_inv, rfl, rfl, by decide, by decide, rfl⟩

/-- `listed` with a host that answers fail and leaves two bytes. -/
def failing : State := { listed with answers := ⟨true, .fail [0x52#8, 0x49#8]⟩ }

theorem witness_FailedWriteLeavesAnyContent :
    CoreInv failing ∧ failing.segIdx = none ∧ failing.configured = true ∧
      lengthSum failing.seg failing.segCount = some 9 ∧ 2 * 9 + 44 ≤ 2 ^ 32 - 1 ∧
      failing.answers.sinkReplace = .fail [0x52#8, 0x49#8] :=
  ⟨{ listed_inv with }, rfl, rfl, by decide, by decide, rfl⟩

theorem witness_DestinationHoldsTheStream :
    CoreInv listed ∧ listed.segIdx = none ∧ listed.configured = true ∧
      lengthSum listed.seg listed.segCount = some 9 ∧ 2 * 9 + 44 ≤ 2 ^ 32 - 1 ∧ listed.answers.sinkReplace = .ok ∧
      (∃ t, exec .write listed = .next t) ∧ 8 ≠ listed.dest.toNat :=
  ⟨listed_inv, rfl, rfl, by decide, by decide, rfl, ⟨_, rfl⟩, by decide⟩

/-- A list of 2147483626 samples, the least that is too long (95_test_vectors.md 2.7). -/
theorem witness_TooLongAListRaisesSizeOverflow :
    ∃ s : State, s.segIdx = none ∧ s.configured = true ∧ lengthSum s.seg s.segCount = some 2147483626 ∧
      2 ^ 32 - 1 < 2 * 2147483626 + 44 :=
  ⟨{ built .exact with segCount := 1, seg := [(0, 0x00000000000000007FFFFFEA00000000#128)] },
    rfl, rfl, by decide +kernel, by decide⟩

theorem witness_WriteKeepsTheList : CoreInv listed ∧ listed.segIdx = none := ⟨listed_inv, rfl⟩

theorem witness_RepeatedWriteIsByteIdentical :
    CoreInv listed ∧ listed.segIdx = none ∧ listed.configured = true ∧
      lengthSum listed.seg listed.segCount = some 9 ∧ 2 * 9 + 44 ≤ 2 ^ 32 - 1 :=
  ⟨listed_inv, rfl, rfl, by decide, by decide⟩

theorem witness_EmptyWriteIsTheHeader :
    (built .exact).segIdx = none ∧ (built .exact).configured = true ∧ (built .exact).segCount = 0 ∧
      (built .exact).answers.sinkReplace = .ok := ⟨rfl, rfl, rfl, rfl⟩

theorem witness_WriteIsItsPassStepByStep :
    listed.segIdx = none ∧ listed.configured = true ∧ lengthSum listed.seg listed.segCount = some 9 ∧
      2 * 9 + 44 ≤ 2 ^ 32 - 1 := ⟨rfl, rfl, by decide, by decide⟩

theorem witness_ResetMeetsTheInvariant : Config.WF ⟨32766, .binary64, 1⟩ := by decide

/-- A step between commands and a step inside a WRITE. -/
theorem witness_StepKeepsTheInvariant :
    (CoreInv waiting ∧ ∃ t, step waiting = .next t) ∧ (CoreInv writing ∧ ∃ t, step writing = .next t) :=
  ⟨⟨waiting_inv, _, rfl⟩, ⟨writing_inv, _, rfl⟩⟩

theorem witness_StepsAreSafe : CoreInv waiting := waiting_inv

theorem witness_StatusFollowsThePriorityOrder :
    CoreInv waiting ∧ waiting.segIdx = none ∧ waiting.inbox = .command writeRequest :: [.reset] ∧
      writeRequest.overlaps = false := ⟨waiting_inv, rfl, rfl, rfl⟩

theorem witness_ConfigurationNeverChanges :
    (∃ t, step waiting = .next t) ∧ ∃ t, exec .write waiting = .next t := ⟨⟨_, rfl⟩, ⟨_, rfl⟩⟩

/-- A NEW that shortens the list. -/
theorem witness_ListOnlyGrowsExceptByNew :
    ∃ s t : State, step s = .next t ∧ t.segCount < s.segCount ∧ s.inbox = [.command newRequest] :=
  ⟨{ listed with inbox := [.command newRequest] }, _, rfl, by decide, rfl⟩

theorem witness_ListOnlyGrowsExceptByNew_kept :
    ∃ t, step waiting = .next t ∧ 0 < waiting.segCount ∧ 0 < t.segCount := ⟨_, rfl, by decide, by decide⟩

theorem witness_StatusIsNotSticky : hostCommand .write = true := rfl

theorem witness_OnlyNewMakesABuilder :
    ∃ s t : State, step s = .next t ∧ s.configured = false ∧ t.configured = true :=
  ⟨{ State.reset with inbox := [.command newRequest] }, _, rfl, rfl, rfl⟩

/-- Two states after a NEW that discarded different lists, with what is left of them in the store. -/
theorem witness_UnspecifiedValuesAreUnobservable :
    ∃ s t : State, CoreInv s ∧ CoreInv t ∧ sameSpecified s t ∧ s ≠ t := by
  refine ⟨{ listed with segCount := 1, seg := [(0, 0x00000000000000020000000600000001#128)] },
    { listed with segCount := 1 }, ?_, ?_, ⟨rfl, fun _ => rfl, fun i hi => ?_⟩, by decide⟩
  · exact { listed_inv with
      countInStore := by decide
      unconfiguredEmpty := by decide
      segWf := by decide
      storeOk := fun i e h => by
        simp only [Memory.get_cons, Memory.get_nil] at h
        split at h
        · cases h; subst_vars; decide
        · cases h
      listOk := fun i hi => by
        obtain rfl : i = 0 := by simpa using hi
        rfl
      writing := fun i h => by cases h }
  · exact { listed_inv with
      countInStore := by decide
      unconfiguredEmpty := by decide
      listOk := fun i hi => listed_inv.listOk i (Nat.lt_succ_of_lt hi)
      writing := fun i h => by cases h }
  · obtain rfl : i = 0 := by simpa using hi
    rfl

end Sys2Proof.Tests
end

/-! PROOFS. The parameters are the same at every step (10_state.md R35). A postcondition on a meaning's next state is
carried through the ways meanings are put together; that the parameters are kept is one such postcondition. -/

namespace Sys2Proof.Machine

/-! ### Postconditions of a result -/

/-- What the meaning answers as a next state, if it answers one, satisfies `P`; a stop satisfies anything. -/
def NextSatisfies (P : State → Prop) (r : Result) : Prop := ∀ t, r = .next t → P t

section
variable {P : State → Prop}

@[simp] theorem nextSatisfies_next_iff (t : State) : NextSatisfies P (.next t) ↔ P t := by simp [NextSatisfies]

@[simp] theorem nextSatisfies_fault (x : Fault) : NextSatisfies P (.fault x) := by simp [NextSatisfies]

@[simp] theorem nextSatisfies_refused (x : Refusal) : NextSatisfies P (.refused x) := by simp [NextSatisfies]

theorem nextSatisfies_andThen {Q : State → Prop} {r : Result} {f : State → Result} (hr : NextSatisfies Q r)
    (hf : ∀ s, Q s → NextSatisfies P (f s)) : NextSatisfies P (andThen r f) := by
  intro t ht
  obtain ⟨s, hs, hft⟩ := (andThen_eq_next_iff r f t).mp ht
  exact hf s (hr s hs) t hft

theorem nextSatisfies_whenIdle {s : State} {k : Result} (hk : NextSatisfies P k) : NextSatisfies P (whenIdle s k) := by
  cases h : s.segIdx with
  | none => simpa [whenIdle_idle s k h] using hk
  | some i => simp [whenIdle_busy s k i h]

theorem nextSatisfies_whenConfigured {s : State} {k : Result} (hr : P (respond .notConfigured s))
    (hk : NextSatisfies P k) : NextSatisfies P (whenConfigured s k) := by
  cases h : s.configured with
  | true => simpa [whenConfigured_yes s k h] using hk
  | false => simpa [whenConfigured_no s k h] using hr

end

/-! ### Each meaning keeps the parameters -/

/-- The meaning's next state, if it answers one, has the parameters `c`. -/
abbrev KeepsCfg (c : Config) : Result → Prop := NextSatisfies (fun t => t.cfg = c)

/-- The checks of a command that needs a Builder keep the parameters when the command's own rule does. -/
theorem whenIdle_whenConfigured_keepsCfg {s : State} {k : Result} (hk : KeepsCfg s.cfg k) :
    KeepsCfg s.cfg (whenIdle s (whenConfigured s k)) :=
  nextSatisfies_whenIdle (nextSatisfies_whenConfigured (respond_cfg .notConfigured s) hk)

theorem execNew_keepsCfg (h : Word64) (s : State) : KeepsCfg s.cfg (execNew h s) := by
  refine nextSatisfies_whenIdle ?_
  split <;> simp

theorem append_keepsCfg (e : Entry) (s : State) : KeepsCfg s.cfg (append e s) := by
  obtain ⟨-, h⟩ | ⟨-, h⟩ | ⟨-, h⟩ := append_cases e s <;> simp [h]

theorem appendTone_keepsCfg (d n : Option Nat) (s : State) : KeepsCfg s.cfg (appendTone d n s) := by
  obtain ⟨d', n', -, -, h⟩ | ⟨-, h⟩ := appendTone_cases d n s
  · rw [h]; exact append_keepsCfg _ s
  · simp [h]

theorem appendSilence_keepsCfg (n : Option Nat) (s : State) : KeepsCfg s.cfg (appendSilence n s) := by
  obtain ⟨n', -, h⟩ | ⟨-, h⟩ := appendSilence_cases n s
  · rw [h]; exact append_keepsCfg _ s
  · simp [h]

theorem execSegTone_keepsCfg (d : Word64) (n : BitVec 32) (s : State) : KeepsCfg s.cfg (execSegTone d n s) := by
  obtain ⟨-, -, h⟩ | ⟨-, h⟩ := execSegTone_cases d n s <;> simp [h]

theorem runEntry_keepsCfg (e : Entry) (s : State) : KeepsCfg s.cfg (runEntry e s) := by
  intro t ht
  obtain ⟨hcfg, -⟩ := runEntry_frame e s t ht
  exact hcfg

theorem segmentTurn_runEntry_keepsCfg (i : Nat) (s : State) : KeepsCfg s.cfg (segmentTurn runEntry i s) := by
  cases h : segRead s i with
  | none => simp [segmentTurn_absent runEntry i s h]
  | some e =>
    rw [segmentTurn_present runEntry i s e h]
    exact nextSatisfies_andThen (runEntry_keepsCfg e s) fun s1 h1 => by simpa using h1

theorem passTurns_keepsCfg (n i : Nat) (s : State) : KeepsCfg s.cfg (passTurns n i s) := by
  induction n generalizing i s with
  | zero => simp [passTurns]
  | succ n ih => exact nextSatisfies_andThen (segmentTurn_runEntry_keepsCfg i s) fun s1 h1 => h1 ▸ ih (i + 1) s1

theorem finishWrite_keepsCfg (s : State) : KeepsCfg s.cfg (finishWrite s) := by simp [finishWrite_eq]

theorem writeList_keepsCfg (s : State) : KeepsCfg s.cfg (writeList s) := by
  unfold writeList
  split
  · simp
  · split
    · simp
    · exact nextSatisfies_andThen (passTurns_keepsCfg s.segCount 0 (beginPass s)) fun s1 h1 =>
        h1 ▸ finishWrite_keepsCfg s1

theorem exec_keepsCfg (i : Instr) (s : State) : KeepsCfg s.cfg (exec i s) := by
  cases i with
  | new h => exact execNew_keepsCfg h s
  | addTone d ms => exact whenIdle_whenConfigured_keepsCfg (appendTone_keepsCfg _ _ s)
  | addToneFreq f ms => exact whenIdle_whenConfigured_keepsCfg (appendTone_keepsCfg _ _ s)
  | addSilence ms => exact whenIdle_whenConfigured_keepsCfg (appendSilence_keepsCfg _ s)
  | write => exact whenIdle_whenConfigured_keepsCfg (writeList_keepsCfg s)
  | segSilence len => simp [exec, execSegSilence]
  | segTone d len => exact execSegTone_keepsCfg d len s

theorem runRequest_exec_keepsCfg (r : Request) (s : State) : KeepsCfg s.cfg (runRequest exec r s) := by
  cases ho : r.overlaps with
  | true => simp [runRequest_overlaps exec r s ho]
  | false =>
    cases hd : decodeCommand r.command with
    | error x => simp [runRequest_illegal exec r s x ho hd]
    | ok i =>
      rw [runRequest_ok exec r s i ho hd]
      exact exec_keepsCfg i (withAnswers r.answers s)

theorem step_keepsCfg (s : State) : KeepsCfg s.cfg (step s) := by
  unfold step
  split
  · split
    · rw [execEntry_eq_runEntry]; exact segmentTurn_runEntry_keepsCfg _ s
    · exact finishWrite_keepsCfg s
  · split
    · simp
    · simp
    · exact runRequest_exec_keepsCfg _ (takeInput _ s)

/-- Settles O54: every part of a step, and every instruction, keeps the parameters. -/
theorem configurationNeverChanges : Obligations.ConfigurationNeverChanges :=
  ⟨step_keepsCfg, exec_keepsCfg⟩

end Sys2Proof.Machine

/-! PROOFS. Which commands decode, and to what (30_encoding.md R84, R85): the five encodings of R84 decode to their
instructions, and a triple is illegal exactly on the conditions of R85, when the step writes STATUS alone
(60_exceptions.md R227). -/

namespace Sys2Proof

/-! ### The branches of the decoder -/

@[simp] theorem decodeCommand_new (h : Word64) : decodeCommand ⟨0x01#64, h, 0#64⟩ = .ok (.new h) := by
  simp [decodeCommand, Command.reserved, Command.opcode, unusedOperand]

@[simp] theorem decodeCommand_addTone (d ms : Word64) : decodeCommand ⟨0x02#64, d, ms⟩ = .ok (.addTone d ms) := by
  simp [decodeCommand, Command.reserved, Command.opcode]

@[simp] theorem decodeCommand_addToneFreq (f ms : Word64) :
    decodeCommand ⟨0x03#64, f, ms⟩ = .ok (.addToneFreq f ms) := by
  simp [decodeCommand, Command.reserved, Command.opcode]

@[simp] theorem decodeCommand_addSilence (ms : Word64) :
    decodeCommand ⟨0x04#64, 0#64, ms⟩ = .ok (.addSilence ms) := by
  simp [decodeCommand, Command.reserved, Command.opcode, unusedOperand]

@[simp] theorem decodeCommand_write : decodeCommand ⟨0x05#64, 0#64, 0#64⟩ = .ok .write := by
  simp [decodeCommand, Command.reserved, Command.opcode, unusedOperand]

theorem decodeCommand_of_reserved {c : Command} (h : c.reserved ≠ 0#56) :
    decodeCommand c = .error .reservedNotZero := by
  simp [decodeCommand, h]

theorem decodeCommand_of_illegalOpcode {c : Command} (hr : c.reserved = 0#56)
    (ho : c.opcode = 0x00#8 ∨ 0x06 ≤ c.opcode.toNat) : decodeCommand c = .error .illegalOpcode := by
  have hne : c.opcode ≠ 0x01#8 ∧ c.opcode ≠ 0x02#8 ∧ c.opcode ≠ 0x03#8 ∧ c.opcode ≠ 0x04#8 ∧ c.opcode ≠ 0x05#8 := by
    bv_omega
  simp [decodeCommand, hr, hne]

@[simp] theorem unusedOperand_fails_iff (w : Word64) (i : Instr) :
    (∃ x, unusedOperand w i = .error x) ↔ w ≠ 0#64 := by
  by_cases h : w = 0#64 <;> simp [unusedOperand, h]

/-- The opcodes that 30_encoding.md R84 assigns, then those that R85 makes illegal. -/
theorem opcode_assigned_or_illegal (o : BitVec 8) :
    o = 0x01#8 ∨ o = 0x02#8 ∨ o = 0x03#8 ∨ o = 0x04#8 ∨ o = 0x05#8 ∨ (o = 0x00#8 ∨ 0x06 ≤ o.toNat) := by
  bv_omega

end Sys2Proof

namespace Sys2Proof.Machine

/-! ### Illegal commands -/

theorem decodeCommand_fails_iff_illegal (c : Command) : (∃ x, decodeCommand c = .error x) ↔ illegalCommand c := by
  by_cases hr : c.reserved = 0#56
  case neg => simp [decodeCommand_of_reserved hr, illegalCommand, hr]
  case pos =>
    obtain ho | ho | ho | ho | ho | ho := opcode_assigned_or_illegal c.opcode
    · -- NEW leaves W2 unused
      simp [decodeCommand, illegalCommand, hr, ho]
    · -- ADD_TONE uses both operands
      simp [decodeCommand, illegalCommand, hr, ho]
    · -- ADD_TONE_FREQ uses both operands
      simp [decodeCommand, illegalCommand, hr, ho]
    · -- ADD_SILENCE leaves W1 unused
      simp [decodeCommand, illegalCommand, hr, ho]
    · -- WRITE leaves both unused, and W1 is read first
      by_cases h1 : c.w1 = 0#64 <;> simp [decodeCommand, illegalCommand, hr, ho, h1]
    · -- no command has this opcode
      simp [decodeCommand_of_illegalOpcode hr ho, illegalCommand, ho]

/-- Between commands a step runs the host's next command (30_encoding.md R70). -/
theorem step_command {s : State} {r : Request} {rest : List HostInput} (hidle : s.segIdx = none)
    (hinbox : s.inbox = .command r :: rest) : step s = runRequest exec r (takeInput rest s) := by
  simp [step, hidle, hinbox]

/-- Settles O3: the decoder's branches against the rule's list, then the one branch of the step that a command which does
not decode takes, before any check of the state. -/
theorem illegalCommandsChangeStatusOnly : Obligations.IllegalCommandsChangeStatusOnly := by
  refine ⟨decodeCommand_fails_iff_illegal, fun s r rest hidle hinbox hoverlaps hillegal => ?_⟩
  obtain ⟨x, hx⟩ := (decodeCommand_fails_iff_illegal r.command).mpr hillegal
  calc step s
      = runRequest exec r (takeInput rest s) := step_command hidle hinbox
    _ = .next (respond .illegalCommand (withAnswers r.answers (takeInput rest s))) :=
        runRequest_illegal exec r _ x hoverlaps hx

/-! ### The encoding examples -/

/-- A line of text assembles to the encoding of the line that is read from it. -/
theorem assembleText_eq_of_readLine {line : String} {c : Command} (l : AsmLine)
    (hread : readLine line.toList = some l) (hencode : assemble l = .ok c) : assembleText line = .ok c := by
  simp [assembleText, hread, hencode]

/-- Settles O1: row by row, the line that is read from the text, its encoding, and the decoder's branch for it. -/
theorem encodingExamplesAssembleAndDecode : Obligations.EncodingExamplesAssembleAndDecode :=
  ⟨⟨assembleText_eq_of_readLine (.new 1) (by decide) (by decide), decodeCommand_new _⟩,
    ⟨assembleText_eq_of_readLine (.tone 512 ⟨false, 50, 0⟩) (by decide) (by decide), decodeCommand_addTone _ _⟩,
    ⟨assembleText_eq_of_readLine (.tonef ⟨false, 440, 0⟩ ⟨false, 250, 0⟩) (by decide) (by decide),
      decodeCommand_addToneFreq _ _⟩,
    ⟨assembleText_eq_of_readLine (.sil ⟨false, 250, 0⟩) (by decide) (by decide), decodeCommand_addSilence _⟩,
    ⟨assembleText_eq_of_readLine .write (by decide) (by decide), decodeCommand_write⟩,
    ⟨assembleText_eq_of_readLine (.tone (-1) ⟨false, 10, 0⟩) (by decide) (by decide), decodeCommand_addTone _ _⟩⟩

end Sys2Proof.Machine

/-! PROOFS. The builder's commands (40_builder.md): NEW's encoding and whole effect (R103), ADD_TONE_FREQ as ADD_TONE
of the converted divisor (R107), and what the four commands leave alone (R109). For the last, the next state of a
command is given as the updates it can have made, and a command ignores PHASE, SAMPLES and TMP when overwriting them before it
gives the outcome of overwriting them after it. -/

namespace Sys2Proof.Machine

/-! ### NEW -/

theorem decodeCommand_new_operand (h b : Word64) : decodeCommand ⟨0x01#64, h, b⟩ = unusedOperand b (.new h) := by
  simp [decodeCommand, Command.reserved, Command.opcode]

theorem execNew_of_destExists {h : Word64} {s : State} (hidle : s.segIdx = none)
    (hyes : s.answers.destExists = true) :
    execNew h s = .next (respond .ok (adoptDestination h (askDestExists h (discardBuilder s)))) := by
  simp [execNew, whenIdle_idle _ _ hidle, hyes]

theorem execNew_of_not_destExists {h : Word64} {s : State} (hidle : s.segIdx = none)
    (hno : s.answers.destExists = false) :
    execNew h s = .next (respond .invalidDestination (askDestExists h (discardBuilder s))) := by
  simp [execNew, whenIdle_idle _ _ hidle, hno]

/-- Settles O12: the decoder's branch for OPCODE 0x01, then NEW's one branch for each answer of the host, as a whole
state. -/
theorem newStartsABuilder : Obligations.NewStartsABuilder := by
  refine ⟨decodeCommand_new_operand, fun h s hidle => ⟨fun hyes => ?_, fun hno => ?_⟩⟩
  · refine (execNew_of_destExists hidle hyes).trans ?_
    simp [respond, adoptDestination, askDestExists, discardBuilder, hyes]
  · refine (execNew_of_not_destExists hidle hno).trans ?_
    simp [respond, askDestExists, discardBuilder, hno]

/-! ### ADD_TONE_FREQ -/

theorem divisorInRange_bounds {n d : Nat} (h : divisorInRange n = some d) : 1 ≤ d ∧ d ≤ divMax := by
  unfold divisorInRange at h
  split at h
  case isTrue hrange => cases h; exact hrange
  case isFalse => cases h

/-- A converted frequency is in 1..DIV_MAX (40_builder.md R102). -/
theorem freqToDivisor_range {mode : NumericMode} {a : Word64} {d : Nat} (h : freqToDivisor mode a = some d) :
    1 ≤ d ∧ d ≤ divMax := by
  unfold freqToDivisor at h
  split at h
  · cases h
  · cases h
  · split at h
    · cases h
    · obtain ⟨n, -, hn⟩ := Option.bind_eq_some_iff.mp h
      exact divisorInRange_bounds hn

/-- A number below `2^63` reads back from its word, the sign bit being clear. -/
theorem sval64_ofNat {n : Nat} (h : n < 2 ^ 63) : sval64 (BitVec.ofNat 64 n) = n := by
  have hsign : (BitVec.ofNat 64 n).getLsbD 63 = false := by
    rw [BitVec.getLsbD_ofNat, Nat.testBit_lt_two_pow h, Bool.and_false]
  rw [sval64, hsign, if_neg Bool.false_ne_true, BitVec.toNat_ofNat, Nat.mod_eq_of_lt (by omega)]

theorem signedDivisor_ofNat {d : Nat} (hpos : 1 ≤ d) (hmax : d ≤ divMax) :
    signedDivisor (BitVec.ofNat 64 d) = some d := by
  have hval : sval64 (BitVec.ofNat 64 d) = d := sval64_ofNat (by unfold divMax at hmax; omega)
  rw [signedDivisor, hval, if_neg (by omega), Int.toNat_natCast]

theorem signedDivisor_zero : signedDivisor 0#64 = none := by decide

/-- The two commands differ only in how A becomes a divisor. -/
theorem exec_addToneFreq_eq_exec_addTone {f a b : Word64} {s : State}
    (h : freqToDivisor s.cfg.numericMode f = signedDivisor a) : exec (.addToneFreq f b) s = exec (.addTone a b) s := by
  simp [exec, execAddToneFreq, execAddTone, h]

/-- A frequency that does not convert is INVALID_PARAMETER, after the check for a Builder (60_exceptions.md R228). -/
theorem exec_addToneFreq_of_invalid {f b : Word64} {s : State} (hidle : s.segIdx = none)
    (h : freqToDivisor s.cfg.numericMode f = none) :
    exec (.addToneFreq f b) s =
      .next (respond (if s.configured then .invalidParameter else .notConfigured) s) := by
  cases hc : s.configured <;>
    simp [exec, execAddToneFreq, whenIdle_idle _ _ hidle, whenConfigured, hc, h, appendTone]

/-- Settles O19: a converted divisor is one that ADD_TONE reads back from its word, and 0 is one that it rejects. -/
theorem frequencyIsConvertedDivisor : Obligations.FrequencyIsConvertedDivisor := by
  refine fun a b s => ⟨fun d hd => ?_, fun hnone => ⟨?_, fun hidle => ?_⟩⟩
  · obtain ⟨hpos, hmax⟩ := freqToDivisor_range hd
    exact exec_addToneFreq_eq_exec_addTone (hd.trans (signedDivisor_ofNat hpos hmax).symm)
  · exact exec_addToneFreq_eq_exec_addTone (hnone.trans signedDivisor_zero.symm)
  · exact ⟨_, exec_addToneFreq_of_invalid hidle hnone, respond_status _ s⟩

/-! ### What a builder command writes -/

theorem appendCommand_iff (i : Instr) :
    appendCommand i = true ↔
      (∃ d ms, i = .addTone d ms) ∨ (∃ f ms, i = .addToneFreq f ms) ∨ ∃ ms, i = .addSilence ms := by
  cases i <;> simp [appendCommand]

/-- `t` is `s` after an append answered: the store and SEG_COUNT may be written, then the status is returned. -/
def AppendEffect (s t : State) : Prop :=
  ∃ st count store, t = respond st { s with segCount := count, seg := store }

/-- `t` is `s` after a NEW of `h` answered: the core's three elements of R103 are written, one query is asked, then the
status is returned. -/
def NewEffect (h : Word64) (s t : State) : Prop :=
  ∃ st configured dest,
    t = respond st (askDestExists h { s with segCount := 0, configured := configured, dest := dest })

theorem appendEffect_respond (st : Status) (s : State) : AppendEffect s (respond st s) :=
  ⟨st, s.segCount, s.seg, rfl⟩

theorem append_effect (e : Entry) (s : State) : NextSatisfies (AppendEffect s) (append e s) := by
  obtain ⟨-, h⟩ | ⟨-, h⟩ | ⟨-, h⟩ := append_cases e s
  · simpa [h] using appendEffect_respond .capacityExceeded s
  · rw [h, nextSatisfies_next_iff]
    exact ⟨.ok, s.segCount + 1, s.seg.set s.segCount e, rfl⟩
  · simp [h]

theorem appendTone_effect (d n : Option Nat) (s : State) : NextSatisfies (AppendEffect s) (appendTone d n s) := by
  obtain ⟨d', n', -, -, h⟩ | ⟨-, h⟩ := appendTone_cases d n s
  · rw [h]; exact append_effect _ s
  · simpa [h] using appendEffect_respond .invalidParameter s

theorem appendSilence_effect (n : Option Nat) (s : State) : NextSatisfies (AppendEffect s) (appendSilence n s) := by
  obtain ⟨n', -, h⟩ | ⟨-, h⟩ := appendSilence_cases n s
  · rw [h]; exact append_effect _ s
  · simpa [h] using appendEffect_respond .invalidParameter s

theorem whenIdle_whenConfigured_effect {s : State} {k : Result} (hk : NextSatisfies (AppendEffect s) k) :
    NextSatisfies (AppendEffect s) (whenIdle s (whenConfigured s k)) :=
  nextSatisfies_whenIdle (nextSatisfies_whenConfigured (appendEffect_respond .notConfigured s) hk)

theorem exec_append_effect {i : Instr} (hi : appendCommand i = true) (s : State) :
    NextSatisfies (AppendEffect s) (exec i s) := by
  obtain ⟨d, ms, rfl⟩ | ⟨f, ms, rfl⟩ | ⟨ms, rfl⟩ := (appendCommand_iff i).mp hi
  · exact whenIdle_whenConfigured_effect (appendTone_effect _ _ s)
  · exact whenIdle_whenConfigured_effect (appendTone_effect _ _ s)
  · exact whenIdle_whenConfigured_effect (appendSilence_effect _ s)

theorem exec_new_effect (h : Word64) (s : State) : NextSatisfies (NewEffect h s) (exec (.new h) s) := by
  refine nextSatisfies_whenIdle ?_
  split
  · exact (nextSatisfies_next_iff _).mpr ⟨.ok, true, h, rfl⟩
  · exact (nextSatisfies_next_iff _).mpr ⟨.invalidDestination, false, s.dest, rfl⟩

/-! ### What a builder command does not read -/

/-- PHASE, SAMPLES and TMP overwritten. -/
def withSynthesis (p : Phase) (xs ys : List Sample) (s : State) : State :=
  { s with phase := p, samples := xs, tmp := ys }

/-- A meaning that neither reads nor writes PHASE, SAMPLES and TMP. -/
def IgnoresSynthesis (f : State → Result) : Prop :=
  ∀ p xs ys s, f (withSynthesis p xs ys s) = andThen (f s) fun t => .next (withSynthesis p xs ys t)

section
variable {f g : State → Result}

theorem ignoresSynthesis_next {u : State → State}
    (hu : ∀ p xs ys s, u (withSynthesis p xs ys s) = withSynthesis p xs ys (u s)) :
    IgnoresSynthesis fun s => .next (u s) :=
  fun p xs ys s => congrArg Host.Outcome.next (hu p xs ys s)

theorem ignoresSynthesis_respond (st : Status) : IgnoresSynthesis fun s => .next (respond st s) :=
  ignoresSynthesis_next fun _ _ _ _ => rfl

theorem ignoresSynthesis_whenIdle (hf : IgnoresSynthesis f) : IgnoresSynthesis fun s => whenIdle s (f s) := by
  intro p xs ys s
  cases h : s.segIdx with
  | none => simpa [whenIdle_idle _ _ h, whenIdle_idle (withSynthesis p xs ys s) _ h] using hf p xs ys s
  | some i => simp [whenIdle_busy _ _ i h, whenIdle_busy (withSynthesis p xs ys s) _ i h]

theorem ignoresSynthesis_ite {c : State → Prop} [DecidablePred c]
    (hc : ∀ p xs ys s, c (withSynthesis p xs ys s) ↔ c s) (hf : IgnoresSynthesis f) (hg : IgnoresSynthesis g) :
    IgnoresSynthesis fun s => if c s then f s else g s := by
  intro p xs ys s
  by_cases h : c s <;> simp [hc, h, hf p xs ys s, hg p xs ys s]

/-- The checks before an append's own rule read none of the three. -/
theorem ignoresSynthesis_whenIdle_whenConfigured (hf : IgnoresSynthesis f) :
    IgnoresSynthesis fun s => whenIdle s (whenConfigured s (f s)) :=
  ignoresSynthesis_whenIdle
    (ignoresSynthesis_ite (fun _ _ _ _ => Iff.rfl) hf (ignoresSynthesis_respond .notConfigured))

/-- Such a meaning answers the same next state whatever PHASE, SAMPLES and TMP hold. -/
theorem IgnoresSynthesis.eq_next_withSynthesis (hf : IgnoresSynthesis f) {s t : State} (ht : f s = .next t)
    (p : Phase) (xs ys : List Sample) : f (withSynthesis p xs ys s) = .next (withSynthesis p xs ys t) := by
  rw [hf, ht, andThen_next]

end

theorem append_ignoresSynthesis (e : Entry) : IgnoresSynthesis (append e) := by
  intro p xs ys s
  unfold append segWrite withSynthesis
  by_cases hfull : s.segCount = s.cfg.maxSegments
  · simp [hfull, respond]
  · by_cases hroom : s.segCount < s.cfg.maxSegments <;> simp [hfull, hroom, respond, countSegment]

theorem appendTone_ignoresSynthesis (d n : Option Nat) : IgnoresSynthesis (appendTone d n) := by
  cases d with
  | none => exact ignoresSynthesis_respond .invalidParameter
  | some d =>
    cases n with
    | none => exact ignoresSynthesis_respond .invalidParameter
    | some n => exact append_ignoresSynthesis _

theorem appendSilence_ignoresSynthesis (n : Option Nat) : IgnoresSynthesis (appendSilence n) := by
  cases n with
  | none => exact ignoresSynthesis_respond .invalidParameter
  | some n => exact append_ignoresSynthesis _

theorem exec_append_ignoresSynthesis {i : Instr} (hi : appendCommand i = true) : IgnoresSynthesis (exec i) := by
  obtain ⟨d, ms, rfl⟩ | ⟨f, ms, rfl⟩ | ⟨ms, rfl⟩ := (appendCommand_iff i).mp hi
  · exact ignoresSynthesis_whenIdle_whenConfigured fun p xs ys s =>
      appendTone_ignoresSynthesis (signedDivisor d) (msToSamples s.cfg.numericMode ms) p xs ys s
  · exact ignoresSynthesis_whenIdle_whenConfigured fun p xs ys s =>
      appendTone_ignoresSynthesis (freqToDivisor s.cfg.numericMode f) (msToSamples s.cfg.numericMode ms) p xs ys s
  · exact ignoresSynthesis_whenIdle_whenConfigured fun p xs ys s =>
      appendSilence_ignoresSynthesis (msToSamples s.cfg.numericMode ms) p xs ys s

theorem exec_new_ignoresSynthesis (h : Word64) : IgnoresSynthesis (exec (.new h)) :=
  ignoresSynthesis_whenIdle <| ignoresSynthesis_ite (c := fun s => s.answers.destExists = true)
    (fun _ _ _ _ => Iff.rfl) (ignoresSynthesis_next fun _ _ _ _ => rfl) (ignoresSynthesis_next fun _ _ _ _ => rfl)

/-- Settles O21: an append's and NEW's next state by the updates it can have made, and no builder command reading what
the synthesizer holds. -/
theorem builderCommandsOnlyBuild : Obligations.BuilderCommandsOnlyBuild := by
  refine fun i s t ht => ⟨fun hi => ?_, fun h hnew => ?_, fun hi => ?_⟩
  · obtain ⟨st, count, store, rfl⟩ := exec_append_effect hi s t ht
    exact ⟨rfl, rfl, rfl⟩
  · subst hnew
    obtain ⟨st, configured, dest, rfl⟩ := exec_new_effect h s t ht
    exact ⟨by simp, rfl⟩
  · obtain hi | ⟨h, rfl⟩ := hi
    · have hreads := (exec_append_ignoresSynthesis hi).eq_next_withSynthesis ht
      obtain ⟨st, count, store, rfl⟩ := exec_append_effect hi s t ht
      exact ⟨rfl, rfl, rfl, rfl, rfl, rfl, rfl, rfl, rfl, hreads⟩
    · have hreads := (exec_new_ignoresSynthesis h).eq_next_withSynthesis ht
      obtain ⟨st, configured, dest, rfl⟩ := exec_new_effect h s t ht
      exact ⟨rfl, rfl, rfl, rfl, rfl, rfl, rfl, rfl, rfl, hreads⟩

end Sys2Proof.Machine

/-! PROOFS. The synthesizer's two segment operations (41_synthesizer.md R141 to R153): the reference algorithm's blocks
are the closed form, and an entry's operation either stops, on a Tone of divisor 0 with samples to emit, or answers one
state, whose SAMPLES and PHASE are closed forms of the entry. -/

namespace Sys2Proof.Machine

/-! ### The reference algorithm and the closed form (R142 to R144, R148) -/

theorem tone_getElem? (c : Config) (d : Nat) {n k : Nat} (h : k < n) : (tone c d n)[k]? = some (toneSample c d k) := by
  simp [tone, h]

theorem tone_add (c : Config) (d m r : Nat) :
    tone c d (m + r) = tone c d m ++ (List.range r).map fun k => toneSample c d (m + k) := by
  simp [tone, List.range_add, Function.comp_def]

theorem take_tone (c : Config) (d : Nat) {n m : Nat} (h : n ≤ m) : (tone c d m).take n = tone c d n := by
  rw [tone, ← List.map_take, List.take_range, Nat.min_eq_left h, tone]

/-- Within the half-cycle `j` the closed form is constant: `floor((j * d + k) / d) = j` for `k < d`. -/
theorem map_toneSample_halfCycle (c : Config) (d j r : Nat) (hr : r ≤ d) :
    ((List.range r).map fun k => toneSample c d (j * d + k)) =
      List.replicate r (if j % 2 = 0 then highSample c else lowSample c) := by
  refine List.eq_replicate_iff.mpr ⟨by simp, fun x hx => ?_⟩
  obtain ⟨k, hk, rfl⟩ := List.mem_map.mp hx
  have hkd : k < d := Nat.lt_of_lt_of_le (List.mem_range.mp hk) hr
  have hdiv : (j * d + k) / d = j := by
    rw [Nat.mul_comm, Nat.mul_add_div (by omega), Nat.div_eq_of_lt hkd, Nat.add_zero]
  simp [toneSample, hdiv]

/-- The first `m` blocks of the reference algorithm are the closed form of `m * d` samples. -/
theorem flatMap_halfCycle_eq_tone (c : Config) (d m : Nat) :
    (List.range m).flatMap (halfCycle c d) = tone c d (m * d) := by
  induction m with
  | zero => simp [tone]
  | succ m ih =>
    rw [List.range_succ, List.flatMap_append, ih, Nat.succ_mul, tone_add, map_toneSample_halfCycle c d m d (le_refl d)]
    simp [halfCycle]

/-- The reference algorithm's `cycleCount` is large enough: its blocks hold at least `L` samples. -/
theorem le_cycleCount_mul {d : Nat} (n : Nat) (hd : 1 ≤ d) : n ≤ 2 * cycleCount d n * d := by
  have hlt : 2 * n < d * (2 * n / d + 1) := Nat.lt_mul_div_succ (2 * n) hd
  calc n ≤ d * (2 * n / d + 1) := by omega
    _ = cycleCount d n * d := Nat.mul_comm _ _
    _ ≤ 2 * cycleCount d n * d := Nat.mul_le_mul_right d (by omega)

theorem toneReference_eq_tone (c : Config) {d : Nat} (n : Nat) (hd : 1 ≤ d) : toneReference c d n = tone c d n := by
  rw [toneReference, toneBlocks, flatMap_halfCycle_eq_tone, take_tone c d (le_cycleCount_mul n hd)]

/-- A Tone starts with a high block, cut short only by its length (R151). -/
theorem tone_starts_high (c : Config) (d n : Nat) :
    ∃ rest, tone c d n = List.replicate (min d n) (highSample c) ++ rest := by
  have hblock : tone c d (min d n) = List.replicate (min d n) (highSample c) := by
    simpa [tone] using map_toneSample_halfCycle c d 0 (min d n) (Nat.min_le_left d n)
  obtain ⟨r, hr⟩ := Nat.exists_eq_add_of_le (Nat.min_le_right d n)
  exact ⟨_, by rw [← hblock, ← tone_add, ← hr]⟩

theorem mem_tone {c : Config} {d n : Nat} {x : Sample} (hx : x ∈ tone c d n) : x = highSample c ∨ x = lowSample c := by
  obtain ⟨k, -, rfl⟩ := List.mem_map.mp hx
  unfold toneSample
  split <;> simp

/-! ### SEG_SILENCE and SEG_TONE -/

theorem decodeEntry_silence {e : Entry} (h : entryKind e = false) : decodeEntry e = .segSilence (entryLength e) := by
  simp [decodeEntry, h]

theorem decodeEntry_tone {e : Entry} (h : entryKind e = true) :
    decodeEntry e = .segTone (entryDivisor e) (entryLength e) := by
  simp [decodeEntry, h]

theorem exec_segTone {d : Word64} (n : BitVec 32) (s : State) (hd : 1 ≤ d.toNat) :
    exec (.segTone d n) s = .next (appendTmp (fixUpPhase (generateTone d.toNat n.toNat s))) := by
  obtain ⟨hzero, -⟩ | ⟨-, h⟩ := execSegTone_cases d n s
  · omega
  · exact h

/-- Settles O28: the one branch of SEG_SILENCE, and the decoder's branch for KIND 0. -/
theorem segSilenceAppendsZeros : Obligations.SegSilenceAppendsZeros :=
  ⟨fun _ _ => rfl, fun _ hkind => decodeEntry_silence hkind⟩

/-- Settles O29: SEG_TONE runs on the closed form, which is the reference algorithm's blocks cut to L. -/
theorem segToneIsTheReferenceAlgorithm : Obligations.SegToneIsTheReferenceAlgorithm := by
  refine ⟨fun _ hkind => decodeEntry_tone hkind, fun d n s hd => ?_⟩
  rw [exec_segTone n s hd, toneReference_eq_tone s.cfg n.toNat hd]
  rfl

/-- Settles O31: what SEG_TONE appends is the closed form, and so is the reference algorithm. -/
theorem referenceToneIsTheClosedForm : Obligations.ReferenceToneIsTheClosedForm := by
  refine ⟨fun d n s hd => ?_, fun c d n hd => ?_⟩
  · exact ⟨_, tone s.cfg d.toNat n.toNat, exec_segTone n s hd, by simp, by simp, fun k hk => tone_getElem? s.cfg _ hk⟩
  · rw [toneReference_eq_tone c n hd]
    exact ⟨tone_length c d n, fun k hk => tone_getElem? c d hk⟩

/-! ### What the operation of an entry answers -/

/-- An entry whose operation stops: a Tone of divisor 0 with samples to emit (R155). -/
def zeroDivisorTone (e : Entry) : Prop :=
  entryKind e = true ∧ (entryDivisor e).toNat = 0 ∧ (entryLength e).toNat ≠ 0

/-- The state that the operation of any other entry answers. -/
def entryResult (e : Entry) (s : State) : State :=
  if entryKind e then appendTmp (fixUpPhase (generateTone (entryDivisor e).toNat (entryLength e).toNat s))
  else emitSilence (entryLength e).toNat s

theorem runEntry_eq_next_iff (e : Entry) (s t : State) :
    runEntry e s = .next t ↔ ¬zeroDivisorTone e ∧ t = entryResult e s := by
  unfold runEntry zeroDivisorTone entryResult
  cases entryKind e with
  | false => simp [execSegSilence, eq_comm]
  | true =>
    obtain ⟨hd, hn, h⟩ | ⟨hdn, h⟩ := execSegTone_cases (entryDivisor e) (entryLength e) s
    · simp [h, hd, hn]
    · have hrun : ¬((entryDivisor e).toNat = 0 ∧ (entryLength e).toNat ≠ 0) := by omega
      simp only [h, hrun, if_true, Host.Outcome.next.injEq, eq_comm (a := t), and_false, not_false_eq_true, true_and]

theorem exec_decodeEntry_eq_next_iff (e : Entry) (s t : State) :
    exec (decodeEntry e) s = .next t ↔ ¬zeroDivisorTone e ∧ t = entryResult e s := by
  rw [← runEntry_eq_exec, runEntry_eq_next_iff]

@[simp] theorem entryResult_samples (e : Entry) (s : State) :
    (entryResult e s).samples = s.samples ++ segmentSamples s.cfg e := by
  unfold entryResult segmentSamples
  split <;> simp

/-- PHASE after an entry, for all parameters: from the last sample of a Tone (R145, R146), NEUTRAL after a Silence. -/
theorem entryResult_phase (e : Entry) (s : State) :
    (entryResult e s).phase =
      if entryKind e then phaseAfterTone s.cfg (segmentSamples s.cfg e) s.phase else .neutral := by
  unfold entryResult segmentSamples
  split <;> simp

/-- With legal parameters it is the table of R150. -/
theorem entryResult_phase_eq_segmentPhase (e : Entry) (s : State) (hc : s.cfg.WF) :
    (entryResult e s).phase = segmentPhase e s.phase := by
  rw [entryResult_phase, segmentPhase]
  split
  · next hk => rw [segmentSamples, if_pos hk, phaseAfterTone_tone s.cfg hc]
  · rfl

@[simp] theorem entryResult_cfg (e : Entry) (s : State) : (entryResult e s).cfg = s.cfg := by
  unfold entryResult; split <;> rfl

@[simp] theorem entryResult_seg (e : Entry) (s : State) : (entryResult e s).seg = s.seg := by
  unfold entryResult; split <;> rfl

@[simp] theorem entryResult_trace (e : Entry) (s : State) : (entryResult e s).trace = s.trace := by
  unfold entryResult; split <;> rfl

/-! ### PHASE and the sample values -/

/-- Settles O32: the operation's one next state has the phase of R150's table. -/
theorem phaseAfterSegmentTable : Obligations.PhaseAfterSegmentTable := by
  intro e s t hc _ ht
  obtain ⟨-, rfl⟩ := (exec_decodeEntry_eq_next_iff e s t).mp ht
  rw [entryResult_phase_eq_segmentPhase e s hc, segmentPhase]
  cases entryKind e <;> rfl

/-- Settles O33: whether an entry stops and what it appends are stated without PHASE, and a Tone starts high. -/
theorem phaseNeverSelectsSamples : Obligations.PhaseNeverSelectsSamples := by
  intro e p s t ht
  obtain ⟨hruns, rfl⟩ := (exec_decodeEntry_eq_next_iff e s t).mp ht
  refine ⟨⟨_, (exec_decodeEntry_eq_next_iff e _ _).mpr ⟨hruns, rfl⟩, by simp⟩, fun hk => ?_⟩
  obtain ⟨rest, hrest⟩ := tone_starts_high s.cfg (entryDivisor e).toNat (entryLength e).toNat
  exact ⟨rest, by rw [entryResult_samples, segmentSamples, if_pos hk, hrest, List.append_assoc]⟩

theorem mem_segmentSamples {c : Config} {e : Entry} {x : Sample} (hx : x ∈ segmentSamples c e) :
    if entryKind e then x = highSample c ∨ x = lowSample c else x = 0#16 := by
  unfold segmentSamples at hx
  split
  · next hk => exact mem_tone (by simpa [hk] using hx)
  · next hk => exact List.eq_of_mem_replicate (by simpa [hk] using hx)

theorem high_ne_zero (c : Config) (h : c.WF) : highSample c ≠ 0#16 := by
  intro he
  have hint := highSample_toInt c h
  obtain ⟨hpos, -⟩ := h
  rw [he, BitVec.toInt_zero] at hint
  omega

theorem low_ne_zero (c : Config) (h : c.WF) : lowSample c ≠ 0#16 := by
  intro he
  have hint := lowSample_toInt c h
  obtain ⟨hpos, -⟩ := h
  rw [he, BitVec.toInt_zero] at hint
  omega

/-- Settles O34: the values of the appended samples by KIND, and the signed readings that tell the three apart. -/
theorem sampleValuesAreThree : Obligations.SampleValuesAreThree := by
  intro e s t hc ht
  obtain ⟨-, rfl⟩ := (exec_decodeEntry_eq_next_iff e s t).mp ht
  exact ⟨⟨_, entryResult_samples e s, fun _ => mem_segmentSamples⟩, high_ne_zero _ hc, low_ne_zero _ hc,
    high_ne_low _ hc, highSample_toInt _ hc, lowSample_toInt _ hc⟩

end Sys2Proof.Machine

/-! PROOFS. The synthesis pass (41_synthesizer.md R140, R154, R156): where the samples of each segment stand in those of
the list, and that two passes over one list with one AMP_HIGH go in step. -/

namespace Sys2Proof.Machine

/-! ### The first entries of the segment list -/

/-- The first `n` entries of the segment store. -/
def firstEntries (s : State) (n : Nat) : List Entry := (List.range n).filterMap (segRead s)

theorem segmentList_eq_firstEntries (s : State) : segmentList s = firstEntries s s.segCount := rfl

theorem firstEntries_succ {s : State} {n : Nat} {e : Entry} (h : segRead s n = some e) :
    firstEntries s (n + 1) = firstEntries s n ++ [e] := by
  simp [firstEntries, List.range_succ, h]

/-- Entry `i` stands after the first `i` entries. -/
theorem firstEntries_eq_append_cons {s : State} {n i : Nat} {e : Entry} (hi : i < n) (h : segRead s i = some e) :
    ∃ rest, firstEntries s n = firstEntries s i ++ e :: rest := by
  obtain ⟨r, rfl⟩ := Nat.exists_eq_add_of_lt hi
  refine ⟨((List.range r).map fun k => i + 1 + k).filterMap (segRead s), ?_⟩
  rw [show i + r + 1 = i + 1 + r by omega, firstEntries, List.range_add, List.filterMap_append, ← firstEntries,
    firstEntries_succ h, List.append_assoc, List.singleton_append]

theorem firstEntries_length {s : State} {n : Nat} (h : ∀ i, i < n → (segRead s i).isSome = true) :
    (firstEntries s n).length = n := by
  induction n with
  | zero => rfl
  | succ n ih =>
    obtain ⟨e, he⟩ := Option.isSome_iff_exists.mp (h n (Nat.lt_succ_self n))
    rw [firstEntries_succ he, List.length_append, ih fun i hi => h i (Nat.lt_succ_of_lt hi), List.length_singleton]

@[simp] theorem listSamples_append (c : Config) (es fs : List Entry) :
    listSamples c (es ++ fs) = listSamples c es ++ listSamples c fs := List.flatMap_append

@[simp] theorem listSamples_cons (c : Config) (e : Entry) (es : List Entry) :
    listSamples c (e :: es) = segmentSamples c e ++ listSamples c es := List.flatMap_cons

@[simp] theorem listTrace_length (es : List Entry) (p : Phase) : (listTrace es p).length = es.length := by
  induction es generalizing p with
  | nil => rfl
  | cons e es ih => simp [listTrace, ih]

/-- The sum of the first LENGTH fields is the number of samples of the first entries (R154). -/
theorem lengthSum_eq_listSamples_length (c : Config) {s : State} {n : Nat}
    (h : ∀ i, i < n → (segRead s i).isSome = true) :
    lengthSum s.seg n = some (listSamples c (firstEntries s n)).length := by
  induction n with
  | zero => rfl
  | succ n ih =>
    obtain ⟨e, he⟩ := Option.isSome_iff_exists.mp (h n (Nat.lt_succ_self n))
    have hget : s.seg.get n = some e := he
    simp [lengthSum, ih fun i hi => h i (Nat.lt_succ_of_lt hi), hget, firstEntries_succ he, listSamples]

/-- Segment `i`'s samples stand after those of the segments before it (R154). -/
theorem take_drop_listSamples (c : Config) {s : State} {n i : Nat} {e : Entry} (hi : i < n)
    (h : segRead s i = some e) :
    ((listSamples c (firstEntries s n)).drop (listSamples c (firstEntries s i)).length).take (entryLength e).toNat =
      segmentSamples c e := by
  obtain ⟨rest, hrest⟩ := firstEntries_eq_append_cons hi h
  rw [hrest, listSamples_append, List.drop_left, listSamples_cons, List.take_left' (segmentSamples_length c e)]

/-! ### The whole pass -/

/-- The pass over a list whose entries are all written and well formed, as a whole next state (R140). -/
theorem synthesize_eq_next {s : State} (hinv : CoreInv s) :
    synthesize s = .next { beginPass s with
      samples := listSamples s.cfg (segmentList s)
      trace := writeTrace s
      phase := (writeTrace s).getLast?.getD .neutral
      segIdx := some s.segCount } := by
  have hlist : ∀ j, 0 ≤ j → j < 0 + s.segCount → ∃ e, (beginPass s).seg.get j = some e ∧ entryWf e = true := by
    intro j _ hj
    obtain ⟨e, he⟩ := Option.isSome_iff_exists.mp (hinv.listOk j (by omega))
    obtain ⟨-, hwf⟩ := hinv.storeOk j e he
    exact ⟨e, he, hwf⟩
  have hread : segRead (beginPass s) = segRead s := rfl
  rw [synthesize, passTurns_spec s.segCount 0 (beginPass s) hinv.cfgOk hinv.tmpEmpty rfl hlist, hread,
    ← List.range_eq_range', ← segmentList]
  simp [writeTrace]

/-- Settles O36: the pass's next state, the count of the first entries' samples, and the list cut at entry i. -/
theorem passEmitsEverySegment : Obligations.PassEmitsEverySegment := by
  intro s hinv _
  have hwritten : ∀ i, i < s.segCount → (segRead s i).isSome = true := hinv.listOk
  refine ⟨_, synthesize_eq_next hinv, rfl, lengthSum_eq_listSamples_length s.cfg hwritten, rfl, ?_, rfl,
    fun i e hi he => ⟨segmentSamples_length s.cfg e, _,
      lengthSum_eq_listSamples_length s.cfg fun j hj => hwritten j (hj.trans hi), take_drop_listSamples s.cfg hi he⟩⟩
  simp [writeTrace, segmentList_eq_firstEntries, firstEntries_length hwritten]

/-! ### What the pass reads (R156) -/

theorem highSample_congr {c c' : Config} (h : c.ampHigh = c'.ampHigh) : highSample c = highSample c' := by
  rw [highSample, h, highSample]

theorem lowSample_congr {c c' : Config} (h : c.ampHigh = c'.ampHigh) : lowSample c = lowSample c' := by
  rw [lowSample, h, lowSample]

theorem tone_congr {c c' : Config} (h : c.ampHigh = c'.ampHigh) (d n : Nat) : tone c d n = tone c' d n := by
  refine List.map_congr_left fun k _ => ?_
  rw [toneSample, highSample_congr h, lowSample_congr h, toneSample]

theorem segmentSamples_congr {c c' : Config} (h : c.ampHigh = c'.ampHigh) (e : Entry) :
    segmentSamples c e = segmentSamples c' e := by
  rw [segmentSamples, tone_congr h, segmentSamples]

theorem phaseAfterTone_congr {c c' : Config} (h : c.ampHigh = c'.ampHigh) (tmp : List Sample) (p : Phase) :
    phaseAfterTone c tmp p = phaseAfterTone c' tmp p := by
  rw [phaseAfterTone, highSample_congr h, phaseAfterTone]

/-- Two states that a pass cannot tell apart but by the segments still to come. -/
structure PassAlike (s t : State) : Prop where
  ampHigh : s.cfg.ampHigh = t.cfg.ampHigh
  samples : s.samples = t.samples
  trace : s.trace = t.trace
  phase : s.phase = t.phase

theorem passAlike_advanceSegment_entryResult {s t : State} (h : PassAlike s t) (e : Entry) :
    PassAlike (advanceSegment (entryResult e s)) (advanceSegment (entryResult e t)) := by
  have hphase : (entryResult e s).phase = (entryResult e t).phase := by
    simp only [entryResult_phase, segmentSamples_congr h.ampHigh, phaseAfterTone_congr h.ampHigh, h.phase]
  exact {
    ampHigh := by simp [h.ampHigh]
    samples := by simp [segmentSamples_congr h.ampHigh, h.samples]
    trace := by simp [h.trace, hphase]
    phase := hphase }

theorem segmentTurn_eq_next_iff (i : Nat) (s t : State) :
    segmentTurn runEntry i s = .next t ↔
      ∃ e, segRead s i = some e ∧ ¬zeroDivisorTone e ∧ t = advanceSegment (entryResult e s) := by
  cases h : segRead s i with
  | none => simp [segmentTurn_absent runEntry i s h]
  | some e =>
    rw [segmentTurn_present runEntry i s e h, andThen_eq_next_iff]
    simp [runEntry_eq_next_iff, and_assoc, eq_comm (b := t)]

theorem segRead_advanceSegment_entryResult (e : Entry) (s : State) :
    segRead (advanceSegment (entryResult e s)) = segRead s := by
  funext i
  simp [segRead]

/-- Passes from alike states over the same entries end alike. -/
theorem passTurns_passAlike (n : Nat) : ∀ (i : Nat) (s t s' t' : State), PassAlike s t →
    (∀ j, i ≤ j → j < i + n → segRead s j = segRead t j) → passTurns n i s = .next s' → passTurns n i t = .next t' →
    PassAlike s' t' := by
  induction n with
  | zero =>
    intro i s t s' t' halike _ hs ht
    obtain rfl : s = s' := by simpa [passTurns] using hs
    obtain rfl : t = t' := by simpa [passTurns] using ht
    exact halike
  | succ n ih =>
    intro i s t s' t' halike hread hs ht
    obtain ⟨s1, hs1, hs2⟩ := (andThen_eq_next_iff _ _ _).mp hs
    obtain ⟨t1, ht1, ht2⟩ := (andThen_eq_next_iff _ _ _).mp ht
    obtain ⟨e, he, -, rfl⟩ := (segmentTurn_eq_next_iff i s s1).mp hs1
    obtain ⟨e', he', -, rfl⟩ := (segmentTurn_eq_next_iff i t t1).mp ht1
    obtain rfl : e = e' := by
      rw [← Option.some.injEq, ← he, ← he']
      exact hread i (le_refl i) (by omega)
    refine ih (i + 1) _ _ s' t' (passAlike_advanceSegment_entryResult halike e) (fun j hij hj => ?_) hs2 ht2
    simpa only [segRead_advanceSegment_entryResult] using hread j (by omega) (by omega)

/-- Settles O38: the starts of both passes are alike, so their ends are. -/
theorem passDependsOnListAndAmplitude : Obligations.PassDependsOnListAndAmplitude := by
  intro s t s' t' hamp hcount hread hs ht
  have hstart : PassAlike (beginPass s) (beginPass t) := ⟨hamp, rfl, rfl, rfl⟩
  have hend := passTurns_passAlike s.segCount 0 (beginPass s) (beginPass t) s' t' hstart
    (fun j _ hj => hread j (by omega)) hs (hcount ▸ ht)
  exact ⟨hend.samples, hend.trace⟩

end Sys2Proof.Machine

/-! PROOFS. The encoded stream read back (42_encoder.md R182, R191): the little-endian value of LE16 and LE32 is the
word they encode, so each integer field of the header has the value put into it; the payload read as little-endian s16
values is the list of samples. -/

namespace Sys2Proof.Machine

/-! ### Reading little-endian integers -/

@[simp] theorem leNat_le16 (v : BitVec 16) : leNat (le16 v) = v.toNat := by
  simp only [leNat, le16, BitVec.extractLsb'_toNat, Nat.shiftRight_eq_div_pow]
  omega

@[simp] theorem leNat_le32 (v : BitVec 32) : leNat (le32 v) = v.toNat := by
  simp only [leNat, le32, BitVec.extractLsb'_toNat, Nat.shiftRight_eq_div_pow]
  omega

/-- The value of a field that holds the LE16 of a number that fits. -/
theorem leAt_eq_of_le16 {out : List Byte} {offset n : Nat}
    (hfield : (out.drop offset).take 2 = le16 (BitVec.ofNat 16 n)) (hfits : n < 2 ^ 16) : leAt out offset 2 = n := by
  rw [leAt, hfield, leNat_le16, BitVec.toNat_ofNat, Nat.mod_eq_of_lt hfits]

/-- The value of a field that holds the LE32 of a number that fits. -/
theorem leAt_eq_of_le32 {out : List Byte} {offset n : Nat}
    (hfield : (out.drop offset).take 4 = le32 (BitVec.ofNat 32 n)) (hfits : n < 2 ^ 32) : leAt out offset 4 = n := by
  rw [leAt, hfield, leNat_le32, BitVec.toNat_ofNat, Nat.mod_eq_of_lt hfits]

/-- A field inside the first of two parts has the value it has in that part alone. -/
theorem leAt_append_of_le {front : List Byte} {offset width : Nat} (h : offset + width ≤ front.length)
    (rest : List Byte) : leAt (front ++ rest) offset width = leAt front offset width := by
  rw [leAt, leAt, List.drop_append_of_le_length (by omega), List.take_append_of_le_length (by simp; omega)]

/-! ### The header and the payload -/

section
variable {n : Nat} (hfits : 2 * n + 44 ≤ 2 ^ 32 - 1)
include hfits

/-- The total size field (42_encoder.md R183). -/
theorem header_leAt_totalSize : leAt (header n) 4 4 = 2 * n + 44 :=
  leAt_eq_of_le32 (n := totalSize n) rfl (by simp only [totalSize, bytesPerSample, headerBytes]; omega)

/-- The data size field (42_encoder.md R184). -/
theorem header_leAt_dataSize : leAt (header n) 40 4 = 2 * n :=
  leAt_eq_of_le32 (n := dataSize n) rfl (by simp only [dataSize, bytesPerSample]; omega)

end

theorem encodeStream_take_header (samples : List Sample) : (encodeStream samples).take 44 = header samples.length :=
  List.take_left' (header_length _)

theorem encodeStream_drop_header (samples : List Sample) : (encodeStream samples).drop 44 = payload samples :=
  List.drop_left' (header_length _)

/-- An integer field of the stream's header has the value it has in the header alone. -/
theorem leAt_encodeStream_of_le (samples : List Sample) {offset width : Nat} (h : offset + width ≤ 44) :
    leAt (encodeStream samples) offset width = leAt (header samples.length) offset width :=
  leAt_append_of_le (by simpa using h) _

@[simp] theorem payload_length (samples : List Sample) : (payload samples).length = 2 * samples.length := by
  induction samples with
  | nil => rfl
  | cons x xs ih => simp only [payload_cons, List.length_append, le16_length, ih, List.length_cons]; omega

theorem encodeStream_length (samples : List Sample) : (encodeStream samples).length = 44 + 2 * samples.length := by
  simp [encodeStream]

/-- The two bytes of LE16, the high one before the low one, make up the word again. -/
theorem high_append_low (x : BitVec 16) : x.extractLsb' 8 8 ++ x.extractLsb' 0 8 = x := by
  have hjoin : x.extractLsb' 8 8 ++ x.extractLsb' 0 8 = x.extractLsb' 0 16 :=
    BitVec.extractLsb'_append_extractLsb'_eq_extractLsb' rfl
  rw [hjoin, BitVec.extractLsb'_eq_self]

/-- Reading the payload as little-endian s16 values gives the samples. -/
@[simp] theorem samplesOf_payload (samples : List Sample) : samplesOf (payload samples) = samples := by
  induction samples with
  | nil => rfl
  | cons x xs ih =>
    calc samplesOf (payload (x :: xs))
        = (x.extractLsb' 8 8 ++ x.extractLsb' 0 8) :: samplesOf (payload xs) := rfl
      _ = x :: xs := by rw [high_append_low, ih]

/-! ### The obligations -/

/-- Settles O39: the bytes of each field stand in the header as given, and the integer ones read back as their values,
of which only the two sizes depend on the count. -/
theorem headerLayout : Obligations.HeaderLayout := by
  refine ⟨encodeStream_take_header, fun n hfits => ?_⟩
  have hfmtChunk : leAt (header n) 16 4 = fmtChunkBytes := leAt_eq_of_le32 rfl (by decide)
  have hformat : leAt (header n) 20 2 = formatCode := leAt_eq_of_le16 rfl (by decide)
  have hchannels : leAt (header n) 22 2 = channels := leAt_eq_of_le16 rfl (by decide)
  have hrate : leAt (header n) 24 4 = declaredRate := leAt_eq_of_le32 rfl (by decide)
  have hbyteRate : leAt (header n) 28 4 = byteRate := leAt_eq_of_le32 rfl (by decide)
  have hblock : leAt (header n) 32 2 = bytesPerSample := leAt_eq_of_le16 rfl (by decide)
  have hbits : leAt (header n) 34 2 = bitsPerSample := leAt_eq_of_le16 rfl (by decide)
  exact ⟨header_length n, rfl, header_leAt_totalSize hfits, rfl, rfl, hfmtChunk, hformat, hchannels, hrate, hbyteRate,
    hblock, hbits, rfl, header_leAt_dataSize hfits⟩

/-- Settles O40: the data size field is twice the number of samples, and the rest is the payload read back. -/
theorem streamRoundTrip : Obligations.StreamRoundTrip := by
  intro samples hfits
  have hdata : leAt (encodeStream samples) 40 4 = 2 * samples.length :=
    (leAt_encodeStream_of_le samples (by decide)).trans (header_leAt_dataSize hfits)
  have htotal : leAt (encodeStream samples) 4 4 = 2 * samples.length + 44 :=
    (leAt_encodeStream_of_le samples (by decide)).trans (header_leAt_totalSize hfits)
  rw [encodeStream_drop_header, samplesOf_payload, encodeStream_length, hdata, htotal]
  exact ⟨rfl, rfl, by omega, rfl⟩

end Sys2Proof.Machine

/-! PROOFS. The statuses (60_exceptions.md). A command reports a status when its last action returns it and nothing before
has returned one; the checks and operations that commands share each report the first of R228's conditions that applies,
and so each command reports its own. -/

namespace Sys2Proof.Machine

/-! ### Reporting one status, last -/

/-- From the log `before`, the meaning answers a next state whose STATUS is `st`, which the host has seen last and as the
only status since. -/
def Reports (before : List Event) (st : Status) (r : Result) : Prop :=
  ∃ t evs, r = .next t ∧ t.status = st ∧ t.log = before ++ evs ++ [.status t.status] ∧ ∀ st', Event.status st' ∉ evs

section
variable {before : List Event} {s u : State} {k : Result} {st : Status}

/-- `respond` reports its status after events that are none. -/
theorem reports_respond {evs : List Event} (hlog : u.log = before ++ evs) (hevs : ∀ st', Event.status st' ∉ evs) :
    Reports before st (.next (respond st u)) :=
  ⟨respond st u, evs, rfl, rfl, by simp [hlog], hevs⟩

/-- A command that fails a check reports the check's status at once. -/
theorem reports_respond_self : Reports s.log st (.next (respond st s)) :=
  reports_respond (evs := []) (by simp) (by simp)

/-- The checks that come before the rule of each command but NEW: NOT_CONFIGURED goes first. -/
theorem reports_whenIdle_whenConfigured (hidle : s.segIdx = none) (hk : Reports s.log st k) :
    Reports s.log (if s.configured = false then .notConfigured else st) (whenIdle s (whenConfigured s k)) := by
  rw [whenIdle_idle s _ hidle]
  cases hc : s.configured with
  | true => simpa [whenConfigured_yes s k hc] using hk
  | false => simpa [whenConfigured_no s k hc] using reports_respond_self

end

/-! ### The appends -/

/-- The append step on a full store. -/
theorem append_full {s : State} (e : Entry) (hfull : s.segCount = s.cfg.maxSegments) :
    append e s = .next (respond .capacityExceeded s) := by
  simp [append, hfull]

theorem appendTone_full {s : State} {d n : Option Nat} (hfull : s.segCount = s.cfg.maxSegments)
    (hd : d.isSome = true) (hn : n.isSome = true) : appendTone d n s = .next (respond .capacityExceeded s) := by
  obtain ⟨d', rfl⟩ := Option.isSome_iff_exists.mp hd
  obtain ⟨n', rfl⟩ := Option.isSome_iff_exists.mp hn
  exact append_full _ hfull

theorem appendSilence_full {s : State} {n : Option Nat} (hfull : s.segCount = s.cfg.maxSegments)
    (hn : n.isSome = true) : appendSilence n s = .next (respond .capacityExceeded s) := by
  obtain ⟨n', rfl⟩ := Option.isSome_iff_exists.mp hn
  exact append_full _ hfull

/-- ADD_TONE's divisor is INVALID exactly below 1. -/
theorem signedDivisor_isNone (a : Word64) : (signedDivisor a).isNone = decide (sval64 a < 1) := by
  by_cases h : sval64 a < 1 <;> simp [signedDivisor, h]

theorem signedDivisor_isSome {a : Word64} (h : 1 ≤ sval64 a) : (signedDivisor a).isSome = true := by
  simp [signedDivisor, Int.not_lt.mpr h]

section
variable {s : State} (hcount : s.segCount ≤ s.cfg.maxSegments)
include hcount

theorem append_reports (e : Entry) :
    Reports s.log (if s.segCount = s.cfg.maxSegments then .capacityExceeded else .ok) (append e s) := by
  obtain ⟨hfull, h⟩ | ⟨hroom, h⟩ | ⟨hover, -⟩ := append_cases e s
  · rw [if_pos hfull, h]
    exact reports_respond_self
  · rw [if_neg (Nat.ne_of_lt hroom), h]
    exact reports_respond (evs := []) (by simp) (by simp)
  · omega

/-- INVALID_PARAMETER goes before CAPACITY_EXCEEDED. -/
theorem appendTone_reports (d n : Option Nat) :
    Reports s.log
      (if d.isNone || n.isNone then .invalidParameter
        else if s.segCount = s.cfg.maxSegments then .capacityExceeded else .ok)
      (appendTone d n s) := by
  obtain ⟨d', n', rfl, rfl, h⟩ | ⟨hnone, h⟩ := appendTone_cases d n s
  · rw [h]
    exact append_reports hcount _
  · rw [if_pos (by simpa using hnone), h]
    exact reports_respond_self

theorem appendSilence_reports (n : Option Nat) :
    Reports s.log
      (if n.isNone then .invalidParameter else if s.segCount = s.cfg.maxSegments then .capacityExceeded else .ok)
      (appendSilence n s) := by
  obtain ⟨n', rfl, h⟩ | ⟨rfl, h⟩ := appendSilence_cases n s
  · rw [h]
    exact append_reports hcount _
  · rw [h]
    exact reports_respond_self

end

/-! ### WRITE -/

/-- A list that is too long for the size fields stops WRITE before its pass (42_encoder.md R181). -/
theorem writeList_of_sizeOverflows {s : State} {n : Nat} (hsum : lengthSum s.seg s.segCount = some n)
    (hover : sizeOverflows n = true) : writeList s = .next (respond .sizeOverflow s) := by
  simp [writeList, hsum, hover]

theorem writeList_of_fits {s : State} {n : Nat} (hsum : lengthSum s.seg s.segCount = some n)
    (hfits : sizeOverflows n = false) : writeList s = andThen (synthesize s) finishWrite := by
  simp [writeList, hsum, hfits]

/-- The end of a WRITE reports after the `SinkReplace` and the PHASE_TRACE. -/
theorem finishWrite_reports (s : State) :
    Reports s.log (match s.answers.sinkReplace with | .ok => .ok | .fail _ => .ioError) (finishWrite s) := by
  rw [finishWrite_eq]
  exact reports_respond
    (evs := [.sinkReplace s.dest (encodeStream s.samples) s.answers.sinkReplace, .phaseTrace s.trace])
    (by simp) (by simp)

/-- SIZE_OVERFLOW goes before IO_ERROR. -/
theorem writeList_reports {s : State} (hinv : CoreInv s) :
    Reports s.log
      (if (lengthSum s.seg s.segCount).any sizeOverflows then .sizeOverflow
        else match s.answers.sinkReplace with | .ok => .ok | .fail _ => .ioError)
      (writeList s) := by
  obtain ⟨n, hsum⟩ := lengthSum_isSome s.seg s.segCount hinv.listOk
  cases hover : sizeOverflows n with
  | true =>
    rw [writeList_of_sizeOverflows hsum hover]
    simpa [hsum, hover] using reports_respond_self
  | false =>
    rw [writeList_of_fits hsum hover, synthesize_eq_next hinv, andThen_next]
    simpa [hsum, hover] using finishWrite_reports _

/-! ### A host command's status -/

/-- The invariant says nothing about the host's further inputs. -/
theorem coreInv_takeInput {s : State} (hinv : CoreInv s) (rest : List HostInput) : CoreInv (takeInput rest s) :=
  { hinv with }

/-- Nor does it about the host's answers. -/
theorem coreInv_withAnswers {s : State} (hinv : CoreInv s) (a : Answers) : CoreInv (withAnswers a s) :=
  { hinv with }

@[simp] theorem unusedOperand_eq_ok_iff (w : Word64) (i j : Instr) :
    unusedOperand w i = .ok j ↔ w = 0#64 ∧ i = j := by
  by_cases h : w = 0#64 <;> simp [unusedOperand, h]

/-- The words of a command never decode to a segment operation (30_encoding.md R84). -/
theorem hostCommand_of_decodeCommand {c : Command} {i : Instr} (h : decodeCommand c = .ok i) :
    hostCommand i = true := by
  by_cases hr : c.reserved = 0#56
  case neg => simp [decodeCommand_of_reserved hr] at h
  case pos =>
    obtain ho | ho | ho | ho | ho | ho := opcode_assigned_or_illegal c.opcode
    · -- NEW
      obtain ⟨-, rfl⟩ : c.w2 = 0#64 ∧ Instr.new c.w1 = i := by simpa [decodeCommand, hr, ho] using h
      rfl
    · -- ADD_TONE
      obtain rfl : Instr.addTone c.w1 c.w2 = i := by simpa [decodeCommand, hr, ho] using h
      rfl
    · -- ADD_TONE_FREQ
      obtain rfl : Instr.addToneFreq c.w1 c.w2 = i := by simpa [decodeCommand, hr, ho] using h
      rfl
    · -- ADD_SILENCE
      obtain ⟨-, rfl⟩ : c.w1 = 0#64 ∧ Instr.addSilence c.w2 = i := by simpa [decodeCommand, hr, ho] using h
      rfl
    · -- WRITE
      by_cases h1 : c.w1 = 0#64
      · obtain ⟨-, rfl⟩ : c.w2 = 0#64 ∧ Instr.write = i := by simpa [decodeCommand, hr, ho, h1] using h
        rfl
      · simp [decodeCommand, hr, ho, h1] at h
    · -- no command has this opcode
      simp [decodeCommand_of_illegalOpcode hr ho] at h

section
variable {s : State}

theorem exec_new_reports (hidle : s.segIdx = none) (h : Word64) :
    Reports s.log (if s.answers.destExists then .ok else .invalidDestination) (exec (.new h) s) := by
  change Reports s.log _ (execNew h s)
  cases hyes : s.answers.destExists with
  | true =>
    rw [execNew_of_destExists hidle hyes]
    exact reports_respond (evs := [.destExists h true]) (by simp [hyes]) (by simp)
  | false =>
    rw [execNew_of_not_destExists hidle hyes]
    exact reports_respond (evs := [.destExists h false]) (by simp [hyes]) (by simp)

theorem exec_addTone_reports (hinv : CoreInv s) (hidle : s.segIdx = none) (a b : Word64) :
    Reports s.log (appendStatus s (decide (sval64 a < 1) || (msToSamples s.cfg.numericMode b).isNone))
      (exec (.addTone a b) s) := by
  rw [← signedDivisor_isNone]
  exact reports_whenIdle_whenConfigured hidle (appendTone_reports hinv.countInStore _ _)

theorem exec_addToneFreq_reports (hinv : CoreInv s) (hidle : s.segIdx = none) (a b : Word64) :
    Reports s.log
      (appendStatus s ((freqToDivisor s.cfg.numericMode a).isNone || (msToSamples s.cfg.numericMode b).isNone))
      (exec (.addToneFreq a b) s) :=
  reports_whenIdle_whenConfigured hidle (appendTone_reports hinv.countInStore _ _)

theorem exec_addSilence_reports (hinv : CoreInv s) (hidle : s.segIdx = none) (b : Word64) :
    Reports s.log (appendStatus s (msToSamples s.cfg.numericMode b).isNone) (exec (.addSilence b) s) :=
  reports_whenIdle_whenConfigured hidle (appendSilence_reports hinv.countInStore _)

theorem exec_write_reports (hinv : CoreInv s) (hidle : s.segIdx = none) :
    Reports s.log (writeStatus s s.answers.sinkReplace) (exec .write s) :=
  reports_whenIdle_whenConfigured hidle (writeList_reports hinv)

end

/-- A request that does not overlap reports ILLEGAL_COMMAND, or the status of the command it decodes to. -/
theorem runRequest_reports {s : State} {r : Request} (hinv : CoreInv s) (hidle : s.segIdx = none)
    (hoverlaps : r.overlaps = false) : Reports s.log (reportedStatus s r) (runRequest exec r s) := by
  have hready : CoreInv (withAnswers r.answers s) := coreInv_withAnswers hinv r.answers
  cases hd : decodeCommand r.command with
  | error x =>
    rw [runRequest_illegal exec r s x hoverlaps hd, reportedStatus, hd]
    exact reports_respond (evs := []) (by simp) (by simp)
  | ok i =>
    rw [runRequest_ok exec r s i hoverlaps hd, reportedStatus, hd]
    cases i with
    | new h => exact exec_new_reports (s := withAnswers r.answers s) hidle h
    | addTone a b => exact exec_addTone_reports hready hidle a b
    | addToneFreq a b => exact exec_addToneFreq_reports hready hidle a b
    | addSilence b => exact exec_addSilence_reports hready hidle b
    | write => exact exec_write_reports hready hidle
    | segSilence n => cases hostCommand_of_decodeCommand hd
    | segTone d n => cases hostCommand_of_decodeCommand hd

/-- Settles O53: between commands a step runs the host's request, and each command reports the first of its conditions. -/
theorem statusFollowsThePriorityOrder : Obligations.StatusFollowsThePriorityOrder := by
  intro s r rest hinv hidle hinbox hoverlaps
  rw [step_command hidle hinbox]
  exact runRequest_reports (coreInv_takeInput hinv rest) hidle hoverlaps

/-! ### The conditions that change STATUS alone -/

/-- Every command but NEW makes the same two checks before its own rule (40_builder.md R100). -/
theorem exec_eq_whenIdle_whenConfigured {i : Instr} (hi : appendCommand i = true ∨ i = .write) (s : State) :
    ∃ k, exec i s = whenIdle s (whenConfigured s k) := by
  obtain hi | rfl := hi
  · obtain ⟨d, ms, rfl⟩ | ⟨f, ms, rfl⟩ | ⟨ms, rfl⟩ := (appendCommand_iff i).mp hi <;> exact ⟨_, rfl⟩
  · exact ⟨_, rfl⟩

/-- Settles O13: the check for a Builder comes before the rule of each of the four. -/
theorem commandsNeedABuilder : Obligations.CommandsNeedABuilder := by
  intro i s hi hidle hc
  obtain ⟨k, hk⟩ := exec_eq_whenIdle_whenConfigured hi s
  rw [hk, whenIdle_idle s _ hidle, whenConfigured_no s k hc]
  rfl

/-- Between commands and with a Builder both checks pass. -/
theorem whenIdle_whenConfigured_pass {s : State} (hidle : s.segIdx = none) (hc : s.configured = true) (k : Result) :
    whenIdle s (whenConfigured s k) = k := by
  rw [whenIdle_idle s _ hidle, whenConfigured_yes s k hc]

/-- Settles O18: the checks pass, the operands convert, and the append step meets the full store. -/
theorem fullStoreRaisesCapacityExceeded : Obligations.FullStoreRaisesCapacityExceeded := by
  intro a b s hidle hc hfull hlength
  refine ⟨fun ha => ?_, fun ha => ?_, ?_⟩
  · exact (whenIdle_whenConfigured_pass hidle hc _).trans (appendTone_full hfull (signedDivisor_isSome ha) hlength)
  · exact (whenIdle_whenConfigured_pass hidle hc _).trans (appendTone_full hfull ha hlength)
  · exact (whenIdle_whenConfigured_pass hidle hc _).trans (appendSilence_full hfull hlength)

/-- Settles O45: the checks pass, and the size check stops WRITE. -/
theorem tooLongAListRaisesSizeOverflow : Obligations.TooLongAListRaisesSizeOverflow := by
  intro s n hidle hc hsum hlong
  have hover : sizeOverflows n = true := by
    rw [← Bool.not_eq_false, sizeOverflows_eq_false_iff]
    omega
  exact (whenIdle_whenConfigured_pass hidle hc _).trans (writeList_of_sizeOverflows hsum hover)

end Sys2Proof.Machine

/-! PROOFS. Encodings (30_encoding.md): the decoders and the encoder undo each other, on the words of a command, on its
24 bytes and on a segment entry, and the assembler's integer literals come back as the values the core reads. -/

namespace Sys2Proof

/-! ### The words of a command -/

/-- A command with clear reserved bits is its opcode and its operands. -/
theorem Command.eq_of_words {c : Command} {o : BitVec 8} {a b : Word64} (hr : c.reserved = 0#56) (ho : c.opcode = o)
    (ha : c.w1 = a) (hb : c.w2 = b) : c = ⟨0#56 ++ o, a, b⟩ := by
  obtain ⟨w0, w1, w2⟩ := c
  have hjoin : w0.extractLsb' 8 56 ++ w0.extractLsb' 0 8 = w0.extractLsb' 0 64 :=
    BitVec.extractLsb'_append_extractLsb'_eq_extractLsb' rfl
  have hw0 : w0 = 0#56 ++ o := by
    rw [← hr, ← ho, Command.reserved, Command.opcode, hjoin, BitVec.extractLsb'_eq_self]
  exact hw0 ▸ ha ▸ hb ▸ rfl

/-- A command that decodes is the encoding of its instruction, which is a command and so well-formed. -/
theorem encode_of_decodeCommand {c : Command} {i : Instr} (h : decodeCommand c = .ok i) :
    i.wellFormed = true ∧ encode i = .command c := by
  by_cases hr : c.reserved = 0#56
  case neg => simp [decodeCommand_of_reserved hr] at h
  case pos =>
    obtain ho | ho | ho | ho | ho | ho := opcode_assigned_or_illegal c.opcode
    · -- NEW
      obtain ⟨h2, rfl⟩ : c.w2 = 0#64 ∧ Instr.new c.w1 = i := by simpa [decodeCommand, hr, ho] using h
      exact ⟨rfl, congrArg Encoded.command (Command.eq_of_words hr ho rfl h2).symm⟩
    · -- ADD_TONE
      obtain rfl : Instr.addTone c.w1 c.w2 = i := by simpa [decodeCommand, hr, ho] using h
      exact ⟨rfl, congrArg Encoded.command (Command.eq_of_words hr ho rfl rfl).symm⟩
    · -- ADD_TONE_FREQ
      obtain rfl : Instr.addToneFreq c.w1 c.w2 = i := by simpa [decodeCommand, hr, ho] using h
      exact ⟨rfl, congrArg Encoded.command (Command.eq_of_words hr ho rfl rfl).symm⟩
    · -- ADD_SILENCE
      obtain ⟨h1, rfl⟩ : c.w1 = 0#64 ∧ Instr.addSilence c.w2 = i := by simpa [decodeCommand, hr, ho] using h
      exact ⟨rfl, congrArg Encoded.command (Command.eq_of_words hr ho h1 rfl).symm⟩
    · -- WRITE
      by_cases h1 : c.w1 = 0#64
      · obtain ⟨h2, rfl⟩ : c.w2 = 0#64 ∧ Instr.write = i := by simpa [decodeCommand, hr, ho, h1] using h
        exact ⟨rfl, congrArg Encoded.command (Command.eq_of_words hr ho h1 h2).symm⟩
      · simp [decodeCommand, hr, ho, h1] at h
    · -- no command has this opcode
      simp [decodeCommand_of_illegalOpcode hr ho] at h

/-! ### Segment entries -/

/-- An entry with clear reserved bits is made of its three fields. -/
theorem entryWord_fields {e : Entry} (hr : entryReserved e = 0#31) :
    entryWord (entryKind e) (entryDivisor e) (entryLength e) = e := by
  refine BitVec.eq_of_getLsbD_eq fun i hi => ?_
  rw [entryWord_getLsbD _ _ _ _ hi]
  split
  case isTrue h0 => rw [h0, entryKind]
  case isFalse h0 =>
    split
    case isTrue h32 =>
      have hbit : (entryReserved e).getLsbD (i - 1) = e.getLsbD i := by
        simp [entryReserved, show i - 1 < 31 by omega, show 1 + (i - 1) = i by omega]
      rw [← hbit, hr, BitVec.getLsbD_zero]
    case isFalse h32 =>
      split
      case isTrue h64 => simp [entryLength, show i - 32 < 32 by omega, show 32 + (i - 32) = i by omega]
      case isFalse h64 => simp [entryDivisor, show i - 64 < 64 by omega, show 64 + (i - 64) = i by omega]

/-- A well-formed entry is the encoding of its instruction, which is well-formed. -/
theorem encode_decodeEntry {e : Entry} (h : entryWf e = true) :
    (decodeEntry e).wellFormed = true ∧ encode (decodeEntry e) = .entry e := by
  unfold entryWf at h
  unfold decodeEntry
  cases hk : entryKind e with
  | true =>
    obtain ⟨hr, hd⟩ : entryReserved e = 0#31 ∧ Instr.toneDivisorOk (entryDivisor e) = true := by simpa [hk] using h
    have he := entryWord_fields hr
    rw [hk] at he
    exact ⟨hd, congrArg Encoded.entry he⟩
  | false =>
    obtain ⟨hr, hd⟩ : entryReserved e = 0#31 ∧ entryDivisor e = 0#64 := by simpa [hk] using h
    have he := entryWord_fields hr
    rw [hk, hd] at he
    exact ⟨rfl, congrArg Encoded.entry he⟩

/-- Every instruction comes back from its encoding. -/
theorem decode_encode (i : Instr) : decode (encode i) = .ok i := by
  cases i with
  | new h => exact decodeCommand_new h
  | addTone d ms => exact decodeCommand_addTone d ms
  | addToneFreq f ms => exact decodeCommand_addToneFreq f ms
  | addSilence ms => exact decodeCommand_addSilence ms
  | write => exact decodeCommand_write
  | segSilence n => simp [encode, decode, decodeEntry]
  | segTone d n => simp [encode, decode, decodeEntry]

/-- Settles O2: instruction by instruction one way; the other way a command by its opcode, an entry by its KIND. -/
theorem decodeAndEncodeAgree : Obligations.DecodeAndEncodeAgree := by
  refine ⟨decode_encode, fun x i hcanonical hdecode => ?_⟩
  cases x with
  | command c => exact encode_of_decodeCommand hdecode
  | entry e =>
    obtain rfl : decodeEntry e = i := by simpa [decode] using hdecode
    exact encode_decodeEntry hcanonical

/-- The entry value as its fields side by side. -/
theorem entryWord_eq_append (kind : Bool) (d : Word64) (n : BitVec 32) :
    entryWord kind d n = d ++ (n ++ (if kind then 1#32 else 0#32)) := by
  have hlow : entryReserved (d ++ (n ++ (if kind then 1#32 else 0#32))) = 0#31 := by
    rw [entryReserved, BitVec.extractLsb'_append_eq_of_add_le (by omega),
      BitVec.extractLsb'_append_eq_of_add_le (by omega)]
    cases kind <;> rfl
  rw [← entryWord_fields hlow]
  congr 1
  · rw [entryKind, BitVec.getLsbD_append, BitVec.getLsbD_append]
    cases kind <;> rfl
  · rw [entryDivisor, BitVec.extractLsb'_append_eq_left]
  · rw [entryLength, BitVec.extractLsb'_append_eq_of_add_le (by omega), BitVec.extractLsb'_append_eq_left]

/-- The value of two words side by side. -/
theorem toNat_append_eq_add {v w : Nat} (x : BitVec v) (y : BitVec w) : (x ++ y).toNat = x.toNat * 2 ^ w + y.toNat := by
  rw [BitVec.toNat_append, ← Nat.shiftLeft_add_eq_or_of_lt y.isLt, Nat.shiftLeft_eq]

/-- Settles O5: the entry is its fields side by side, so its value is their sum at their places. -/
theorem entryWordIsItsFields : Obligations.EntryWordIsItsFields := by
  intro kind d n
  rw [entryWord_eq_append, toNat_append_eq_add, toNat_append_eq_add]
  cases kind with
  | false => simp
  | true => simp; omega

/-! ### The byte transport -/

@[simp] theorem wordBytes_length (w : Word64) : (wordBytes w).length = 8 := rfl

theorem wordBytes_getElem? (w : Word64) {k : Nat} (h : k < 8) :
    (wordBytes w)[k]? = some (w.extractLsb' (8 * k) 8) := by
  interval_cases k <;> rfl

/-- Putting the 8 bytes of a word side by side gives the word. -/
theorem wordOfBytes_extract (w : Word64) :
    wordOfBytes (w.extractLsb' 0 8) (w.extractLsb' 8 8) (w.extractLsb' 16 8) (w.extractLsb' 24 8)
      (w.extractLsb' 32 8) (w.extractLsb' 40 8) (w.extractLsb' 48 8) (w.extractLsb' 56 8) = w := by
  have hjoin (b m : Nat) : w.extractLsb' (b + 8) m ++ w.extractLsb' b 8 = w.extractLsb' b (m + 8) :=
    BitVec.extractLsb'_append_extractLsb'_eq_extractLsb' rfl
  rw [wordOfBytes, hjoin 48, hjoin 40, hjoin 32, hjoin 24, hjoin 16, hjoin 8, hjoin 0, BitVec.extractLsb'_eq_self]

@[simp] theorem takeWord_wordBytes (w : Word64) (rest : List Byte) : takeWord (wordBytes w ++ rest) = .ok (w, rest) := by
  rw [wordBytes, List.cons_append, List.cons_append, List.cons_append, List.cons_append, List.cons_append,
    List.cons_append, List.cons_append, List.cons_append, List.nil_append, takeWord, wordOfBytes_extract]

theorem takeCommand_commandBytes (c : Command) (rest : List Byte) :
    takeCommand (commandBytes c ++ rest) = .ok (c, rest) := by
  simp [takeCommand, commandBytes]

/-- Settles O4: each word is its 8 bytes and reads back from them, and the words stand one after another. -/
theorem transportCarriesCommands : Obligations.TransportCarriesCommands := by
  intro c rest
  refine ⟨rfl, takeCommand_commandBytes c rest, fun k hk => ⟨?_, ?_, ?_⟩⟩
  · rw [← wordBytes_getElem? c.w0 hk, commandBytes, List.append_assoc, List.getElem?_append_left (by simpa using hk)]
  · rw [← wordBytes_getElem? c.w1 hk, commandBytes, List.getElem?_append_left (by simp; omega),
      List.getElem?_append_right (by simp)]
    simp
  · rw [← wordBytes_getElem? c.w2 hk, commandBytes, List.getElem?_append_right (by simp)]
    simp

end Sys2Proof

namespace Sys2Proof.Machine

/-! ### The assembler's integers -/

theorem sval64_eq_toInt (w : Word64) : sval64 w = w.toInt := by
  rw [BitVec.toInt_eq_msb_cond, BitVec.msb_eq_getLsbD_last, sval64]
  rfl

/-- A number in the s64 range reads back from its word. -/
theorem sval64_ofInt {d : Int} (hlow : -(2 ^ 63) ≤ d) (hhigh : d < 2 ^ 63) : sval64 (BitVec.ofInt 64 d) = d := by
  rw [sval64_eq_toInt, BitVec.toInt_ofInt]
  exact Int.bmod_eq_of_le (by omega) (by omega)

theorem assemble_tone_of_outOfRange {d : Int} (ms : Decimal) (h : d < -(2 ^ 63) ∨ 2 ^ 63 ≤ d) :
    assemble (.tone d ms) = .error .divisorOutOfRange :=
  if_neg (by omega)

theorem assemble_tone {d : Int} (ms : Decimal) (hlow : -(2 ^ 63) ≤ d) (hhigh : d < 2 ^ 63) :
    assemble (.tone d ms) = .ok ⟨0x02#64, BitVec.ofInt 64 d, binary64 ms⟩ :=
  if_pos ⟨hlow, hhigh⟩

theorem assemble_new_of_outOfRange {h : Nat} (hh : 2 ^ 64 ≤ h) : assemble (.new h) = .error .handleOutOfRange :=
  if_neg (by omega)

theorem assemble_new {h : Nat} (hh : h < 2 ^ 64) : assemble (.new h) = .ok ⟨0x01#64, BitVec.ofNat 64 h, 0#64⟩ :=
  if_pos hh

/-- Settles O6: the two range checks, and the words of integers in range read back. -/
theorem assemblerKeepsIntegers : Obligations.AssemblerKeepsIntegers := by
  refine ⟨fun d ms => assemble_tone_of_outOfRange ms, fun d ms hlow hhigh => ?_, fun h => assemble_new_of_outOfRange,
    fun h hh => ?_⟩
  · exact ⟨_, _, assemble_tone ms hlow hhigh, decodeCommand_addTone _ _, sval64_ofInt hlow hhigh⟩
  · exact ⟨_, _, assemble_new hh, decodeCommand_new _, by rw [BitVec.toNat_ofNat, Nat.mod_eq_of_lt hh]⟩

end Sys2Proof.Machine

/-! PROOFS. The append step (40_builder.md R104 to R108): what it writes when there is room, INVALID_PARAMETER for
operands that do not convert (60_exceptions.md R223), and everything an append that answers can have done. -/

namespace Sys2Proof.Machine

/-! ### Completion -/

/-- The state after an entry is appended, before the status (40_builder.md R108). -/
def appended (e : Entry) (s : State) : State := countSegment { s with seg := s.seg.set s.segCount e }

theorem append_room {s : State} (e : Entry) (hroom : s.segCount < s.cfg.maxSegments) :
    append e s = .next (respond .ok (appended e s)) := by
  simp [append, segWrite, hroom, Nat.ne_of_lt hroom, appended]

/-- A divisor of at least 1 is its own word read as s64, so it converts to the word's unsigned value. -/
theorem signedDivisor_of_pos {a : Word64} (h : 1 ≤ sval64 a) : signedDivisor a = some a.toNat := by
  have hval : sval64 a = a.toNat := by
    unfold sval64 at h ⊢
    split at h
    · omega
    · next hsign => rw [if_neg hsign]
  rw [signedDivisor, if_neg (by omega), hval, Int.toNat_natCast]

/-- Settles O14: the checks pass, the divisor is its own word, and the append step has room. -/
theorem addToneAppendsATone : Obligations.AddToneAppendsATone := by
  intro a b n s hidle hc ha hb hroom
  refine (whenIdle_whenConfigured_pass hidle hc _).trans ?_
  rw [signedDivisor_of_pos ha, hb, appendTone, append_room _ hroom, BitVec.ofNat_toNat, BitVec.setWidth_eq]
  rfl

/-- Settles O15: the checks pass and the append step has room for the Tone of the converted divisor. -/
theorem addToneFreqAppendsATone : Obligations.AddToneFreqAppendsATone := by
  intro a b d n s hidle hc ha hb hroom
  refine (whenIdle_whenConfigured_pass hidle hc _).trans ?_
  rw [ha, hb, appendTone, append_room _ hroom]
  rfl

/-- Settles O16: the checks pass and the append step has room for the Silence. -/
theorem addSilenceAppendsASilence : Obligations.AddSilenceAppendsASilence := by
  intro b n s hidle hc hb hroom
  refine (whenIdle_whenConfigured_pass hidle hc _).trans ?_
  rw [hb, appendSilence, append_room _ hroom]
  rfl

/-! ### INVALID_PARAMETER -/

/-- The append step itself never raises INVALID_PARAMETER. -/
theorem append_ne_invalidParameter (e : Entry) (s : State) : append e s ≠ .next (respond .invalidParameter s) := by
  intro h
  have hstatus : NextSatisfies (fun t => t.status ≠ .invalidParameter) (append e s) := by
    obtain ⟨-, h⟩ | ⟨-, h⟩ | ⟨-, h⟩ := append_cases e s <;> simp [h]
  exact hstatus _ h rfl

theorem appendTone_invalid_iff (d n : Option Nat) (s : State) :
    appendTone d n s = .next (respond .invalidParameter s) ↔ d = none ∨ n = none := by
  obtain ⟨d', n', rfl, rfl, h⟩ | ⟨hnone, h⟩ := appendTone_cases d n s
  · rw [h]
    simpa using append_ne_invalidParameter _ s
  · exact iff_of_true h hnone

theorem appendSilence_invalid_iff (n : Option Nat) (s : State) :
    appendSilence n s = .next (respond .invalidParameter s) ↔ n = none := by
  obtain ⟨n', rfl, h⟩ | ⟨hnone, h⟩ := appendSilence_cases n s
  · rw [h]
    simpa using append_ne_invalidParameter _ s
  · exact iff_of_true h hnone

theorem signedDivisor_eq_none_iff (a : Word64) : signedDivisor a = none ↔ sval64 a < 1 := by
  rw [← Option.isNone_iff_eq_none, signedDivisor_isNone, decide_eq_true_iff]

/-- Settles O17: the checks pass, and the append raises INVALID_PARAMETER exactly when an operand is INVALID. -/
theorem invalidOperandsRaiseInvalidParameter : Obligations.InvalidOperandsRaiseInvalidParameter := by
  intro a b s hidle hc
  have hpass (k : Result) (t : State) : whenIdle s (whenConfigured s k) = .next t ↔ k = .next t := by
    rw [whenIdle_whenConfigured_pass hidle hc]
  refine ⟨(hpass _ _).trans ?_, (hpass _ _).trans ?_, (hpass _ _).trans ?_⟩
  · rw [← signedDivisor_eq_none_iff]
    exact appendTone_invalid_iff _ _ s
  · exact appendTone_invalid_iff _ _ s
  · exact appendSilence_invalid_iff _ s

/-! ### Everything an append can do -/

/-- `t` is `s` after an append: one well-formed entry was appended with a Builder and room for it, or an exception
changed STATUS alone. -/
def AppendOutcome (s t : State) : Prop :=
  (s.configured = true ∧ s.segCount < s.cfg.maxSegments ∧ ∃ e, entryWf e = true ∧ t = respond .ok (appended e s)) ∨
  ∃ st, st ≠ .ok ∧ t = respond st s

/-- A converted divisor is one that a Tone's entry can hold (30_encoding.md R82). -/
theorem toneDivisorOk_ofNat {d : Nat} (hpos : 1 ≤ d) (hmax : d ≤ divMax) :
    Instr.toneDivisorOk (BitVec.ofNat 64 d) = true := by
  unfold divMax at hmax
  rw [Instr.toneDivisorOk, BitVec.toNat_ofNat, Nat.mod_eq_of_lt (by omega)]
  simpa using ⟨hpos, hmax⟩

theorem signedDivisor_range {a : Word64} {d : Nat} (h : signedDivisor a = some d) : 1 ≤ d ∧ d ≤ divMax := by
  have hlt : 2 * a.toInt < 2 ^ 64 := BitVec.two_mul_toInt_lt
  rw [signedDivisor, sval64_eq_toInt] at h
  unfold divMax
  split at h
  · cases h
  · next hpos =>
    obtain rfl := Option.some.inj h
    omega

section
variable {s : State}

theorem append_outcome {e : Entry} (hc : s.configured = true) (he : entryWf e = true) :
    NextSatisfies (AppendOutcome s) (append e s) := by
  obtain ⟨-, h⟩ | ⟨hroom, -⟩ | ⟨-, h⟩ := append_cases e s
  · rw [h, nextSatisfies_next_iff]
    exact .inr ⟨_, by decide, rfl⟩
  · rw [append_room e hroom, nextSatisfies_next_iff]
    exact .inl ⟨hc, hroom, e, he, rfl⟩
  · simp [h]

theorem appendTone_outcome {d n : Option Nat} (hc : s.configured = true)
    (hd : ∀ d', d = some d' → 1 ≤ d' ∧ d' ≤ divMax) : NextSatisfies (AppendOutcome s) (appendTone d n s) := by
  obtain ⟨d', n', hd', -, h⟩ | ⟨-, h⟩ := appendTone_cases d n s
  · obtain ⟨hpos, hmax⟩ := hd d' hd'
    rw [h]
    exact append_outcome hc (entryWf_tone _ _ (toneDivisorOk_ofNat hpos hmax))
  · rw [h, nextSatisfies_next_iff]
    exact .inr ⟨_, by decide, rfl⟩

theorem appendSilence_outcome (n : Option Nat) (hc : s.configured = true) :
    NextSatisfies (AppendOutcome s) (appendSilence n s) := by
  obtain ⟨n', -, h⟩ | ⟨-, h⟩ := appendSilence_cases n s
  · rw [h]
    exact append_outcome hc (entryWf_silence _)
  · rw [h, nextSatisfies_next_iff]
    exact .inr ⟨_, by decide, rfl⟩

/-- The checks before an append's own rule leave an outcome of an append. -/
theorem whenIdle_whenConfigured_outcome {k : Result} (hk : s.configured = true → NextSatisfies (AppendOutcome s) k) :
    NextSatisfies (AppendOutcome s) (whenIdle s (whenConfigured s k)) := by
  refine nextSatisfies_whenIdle ?_
  cases hc : s.configured with
  | true => rw [whenConfigured_yes s k hc]; exact hk hc
  | false =>
    rw [whenConfigured_no s k hc, nextSatisfies_next_iff]
    exact .inr ⟨_, by decide, rfl⟩

end

theorem exec_append_outcome {i : Instr} (hi : appendCommand i = true) (s : State) :
    NextSatisfies (AppendOutcome s) (exec i s) := by
  obtain ⟨d, ms, rfl⟩ | ⟨f, ms, rfl⟩ | ⟨ms, rfl⟩ := (appendCommand_iff i).mp hi
  · exact whenIdle_whenConfigured_outcome fun hc => appendTone_outcome hc fun _ => signedDivisor_range
  · exact whenIdle_whenConfigured_outcome fun hc => appendTone_outcome hc fun _ => freqToDivisor_range
  · exact whenIdle_whenConfigured_outcome (appendSilence_outcome _)

/-- Settles O20: the two outcomes of an append, read off field by field. -/
theorem appendIsAtomic : Obligations.AppendIsAtomic := by
  intro i s t hi ht
  obtain ⟨-, hroom, e, he, rfl⟩ | ⟨st, hst, rfl⟩ := exec_append_outcome hi s t ht
  · exact .inl ⟨rfl, rfl, hroom, e, he, rfl⟩
  · exact .inr ⟨hst, rfl, rfl⟩

end Sys2Proof.Machine

/-! PROOFS. The step (00_scope.md R2, 30_encoding.md R70): the equation of each of its branches, what it says of an idle
core, a reset and an overlap, and that no command reads the STATUS before it (60_exceptions.md section 3). -/

namespace Sys2Proof.Machine

/-! ### The branches of the step -/

theorem step_idle {s : State} (hidle : s.segIdx = none) (hinbox : s.inbox = []) : step s = .next s := by
  simp [step, hidle, hinbox]

theorem step_reset {s : State} {rest : List HostInput} (hidle : s.segIdx = none) (hinbox : s.inbox = .reset :: rest) :
    step s = .next (applyReset (takeInput rest s)) := by
  simp [step, hidle, hinbox]

theorem step_segment {s : State} {i : Nat} (hi : s.segIdx = some i) (hlt : i < s.segCount) :
    step s = segmentTurn runEntry i s := by
  simp [step, hi, hlt, execEntry_eq_runEntry]

theorem step_end {s : State} {i : Nat} (hi : s.segIdx = some i) (hle : s.segCount ≤ i) : step s = finishWrite s := by
  simp [step, hi, Nat.not_lt.mpr hle]

/-- A step's next state satisfies what it satisfies on each branch. -/
theorem nextSatisfies_step {P : State → Prop} {s : State}
    (hturn : ∀ i, s.segIdx = some i → i < s.segCount → NextSatisfies P (segmentTurn runEntry i s))
    (hend : ∀ i, s.segIdx = some i → s.segCount ≤ i → NextSatisfies P (finishWrite s))
    (hstay : s.segIdx = none → s.inbox = [] → P s)
    (hreset : ∀ rest, s.segIdx = none → s.inbox = .reset :: rest → P (applyReset (takeInput rest s)))
    (hillegal : ∀ r rest, s.segIdx = none → s.inbox = .command r :: rest →
      P (respond .illegalCommand (withAnswers r.answers (takeInput rest s))))
    (hcommand : ∀ r rest i, s.segIdx = none → s.inbox = .command r :: rest → decodeCommand r.command = .ok i →
      NextSatisfies P (exec i (withAnswers r.answers (takeInput rest s)))) :
    NextSatisfies P (step s) := by
  cases hidx : s.segIdx with
  | some i =>
    by_cases hlt : i < s.segCount
    · rw [step_segment hidx hlt]; exact hturn i hidx hlt
    · rw [step_end hidx (Nat.not_lt.mp hlt)]; exact hend i hidx (Nat.not_lt.mp hlt)
  | none =>
    cases hinbox : s.inbox with
    | nil => rw [step_idle hidx hinbox, nextSatisfies_next_iff]; exact hstay hidx hinbox
    | cons input rest =>
      cases input with
      | reset => rw [step_reset hidx hinbox, nextSatisfies_next_iff]; exact hreset rest hidx hinbox
      | command r =>
        rw [step_command hidx hinbox]
        cases ho : r.overlaps with
        | true => simp [runRequest_overlaps exec r _ ho]
        | false =>
          cases hd : decodeCommand r.command with
          | error x =>
            rw [runRequest_illegal exec r _ x ho hd, nextSatisfies_next_iff]
            exact hillegal r rest hidx hinbox
          | ok i => rw [runRequest_ok exec r _ i ho hd]; exact hcommand r rest i hidx hinbox hd

/-- Settles O7: the branch of a request that does not overlap and decodes. -/
theorem stepRunsDecodedCommand : Obligations.StepRunsDecodedCommand := by
  intro s r rest i hidle hinbox ho hd
  rw [step_command hidle hinbox, runRequest_ok exec r _ i ho hd]

/-- Settles O8: a turn runs the entry it reads, which writes neither the trace nor SEG_IDX, and then both advance. -/
theorem stepRunsDecodedSegment : Obligations.StepRunsDecodedSegment := by
  refine ⟨fun s t i e hi hlt hread hexec => ?_, fun s i => step_end⟩
  rw [← runEntry_eq_exec] at hexec
  obtain ⟨-, -, -, -, -, -, hidx, htrace, -⟩ := runEntry_frame e s t hexec
  rw [step_segment hi hlt, segmentTurn_present runEntry i s e hread, hexec, andThen_next, advanceSegment, htrace, hidx,
    hi]
  rfl

/-- Every host command first checks that no WRITE is running (70_reset_and_hazards.md R253). -/
theorem exec_eq_whenIdle {i : Instr} (hi : hostCommand i = true) (s : State) : ∃ k, exec i s = whenIdle s k := by
  cases i with
  | new h => exact ⟨_, rfl⟩
  | addTone d ms => exact ⟨_, rfl⟩
  | addToneFreq f ms => exact ⟨_, rfl⟩
  | addSilence ms => exact ⟨_, rfl⟩
  | write => exact ⟨_, rfl⟩
  | segSilence n => cases hi
  | segTone d n => cases hi

/-- Settles O9: the branch of a request that overlaps, and the check that every host command makes first. -/
theorem overlappingCommandsAreRefused : Obligations.OverlappingCommandsAreRefused := by
  refine ⟨fun s r rest hidle hinbox ho => ?_, fun s i k hi hbusy => ?_⟩
  · rw [step_command hidle hinbox, runRequest_overlaps exec r _ ho]
  · obtain ⟨r, hr⟩ := exec_eq_whenIdle hi s
    rw [hr, whenIdle_busy s r k hbusy]

/-- Settles O10: the branch of the step with no input. -/
theorem idleCoreKeepsItsState : Obligations.IdleCoreKeepsItsState := fun _ => step_idle

/-- Settles O11: the reset state field by field, and the branch of the step that applies it. -/
theorem resetValues : Obligations.ResetValues := by
  refine ⟨fun c => ⟨rfl, rfl, rfl, rfl, rfl, rfl, rfl, rfl⟩, fun s rest hidle hinbox => ?_⟩
  exact ⟨_, step_reset hidle hinbox, rfl, rfl, rfl, rfl, rfl, rfl, rfl, rfl, rfl, rfl, rfl⟩

/-- Settles O59: the two tables of codes, whose values are at most 7 and never 0b11. -/
theorem codesOfStatusAndPhase : Obligations.CodesOfStatusAndPhase :=
  ⟨rfl, fun st => by cases st <;> decide, rfl, fun p => by cases p <;> decide⟩

/-- Settles O30: the two outcomes of SEG_TONE at divisor 0; with no sample TMP is empty, and PHASE is kept. -/
theorem zeroDivisorToneStopsUnlessEmpty : Obligations.ZeroDivisorToneStopsUnlessEmpty := by
  refine ⟨fun n s hn => ?_, fun s => ?_⟩
  · obtain ⟨-, -, h⟩ | ⟨hrun, -⟩ := execSegTone_cases 0#64 n s
    · exact h
    · exact absurd hrun (by simpa using hn)
  · obtain ⟨-, hn, -⟩ | ⟨-, h⟩ := execSegTone_cases 0#64 0#32 s
    · exact absurd rfl hn
    · refine h.trans ?_
      simp [appendTmp, fixUpPhase, generateTone, tone, phaseAfterTone]

/-- Settles O27: each vector is computed. -/
theorem conversionVectors : Obligations.ConversionVectors := by
  unfold Obligations.ConversionVectors
  decide +kernel

/-! ### STATUS is not read -/

/-- STATUS overwritten. -/
def withStatus (st : Status) (s : State) : State := { s with status := st }

/-- A segment operation carries STATUS through. -/
theorem runEntry_withStatus (e : Entry) (st : Status) (s : State) :
    runEntry e (withStatus st s) = andThen (runEntry e s) fun t => .next (withStatus st t) := by
  unfold runEntry execSegTone
  cases entryKind e with
  | false => rfl
  | true =>
    by_cases hzero : (entryDivisor e).toNat = 0 ∧ (entryLength e).toNat ≠ 0
    · simp [hzero]
    · simp only [hzero, if_false, if_true, andThen_next]
      rfl

theorem segmentTurn_withStatus (i : Nat) (st : Status) (s : State) :
    segmentTurn runEntry i (withStatus st s) =
      andThen (segmentTurn runEntry i s) fun t => .next (withStatus st t) := by
  have hread : segRead (withStatus st s) i = segRead s i := rfl
  cases h : segRead s i with
  | none => rw [segmentTurn_absent runEntry i _ (hread.trans h), segmentTurn_absent runEntry i s h, andThen_fault]
  | some e =>
    rw [segmentTurn_present runEntry i _ e (hread.trans h), segmentTurn_present runEntry i s e h, runEntry_withStatus,
      andThen_assoc, andThen_assoc]
    rfl

theorem passTurns_withStatus (n i : Nat) (st : Status) (s : State) :
    passTurns n i (withStatus st s) = andThen (passTurns n i s) fun t => .next (withStatus st t) := by
  induction n generalizing i s with
  | zero => rfl
  | succ n ih =>
    rw [passTurns, passTurns, segmentTurn_withStatus, andThen_assoc, andThen_assoc]
    simp only [andThen_next, ih]

theorem finishWrite_withStatus (st : Status) (s : State) : finishWrite (withStatus st s) = finishWrite s := by
  rw [finishWrite_eq, finishWrite_eq]
  rfl

theorem writeList_withStatus (st : Status) (s : State) : writeList (withStatus st s) = writeList s := by
  have hpass : andThen (synthesize (withStatus st s)) finishWrite = andThen (synthesize s) finishWrite := by
    have hbegin : synthesize (withStatus st s) = passTurns s.segCount 0 (withStatus st (beginPass s)) := rfl
    rw [hbegin, passTurns_withStatus, andThen_assoc]
    simp only [andThen_next, finishWrite_withStatus]
    rfl
  unfold writeList
  rw [hpass]
  rfl

theorem append_withStatus (e : Entry) (st : Status) (s : State) : append e (withStatus st s) = append e s := by
  obtain ⟨hfull, h⟩ | ⟨hroom, h⟩ | ⟨hover, h⟩ := append_cases e s
  · rw [h, append_full e (s := withStatus st s) hfull]; rfl
  · rw [h, append_room e (s := withStatus st s) hroom]; rfl
  · obtain ⟨hfull, -⟩ | ⟨hroom, -⟩ | ⟨-, h'⟩ := append_cases e (withStatus st s)
    · exact absurd hfull (Nat.ne_of_gt hover)
    · exact absurd hroom (Nat.not_lt_of_gt hover)
    · rw [h, h']

theorem appendTone_withStatus (d n : Option Nat) (st : Status) (s : State) :
    appendTone d n (withStatus st s) = appendTone d n s := by
  cases d with
  | none => rfl
  | some d =>
    cases n with
    | none => rfl
    | some n => exact append_withStatus _ st s

theorem appendSilence_withStatus (n : Option Nat) (st : Status) (s : State) :
    appendSilence n (withStatus st s) = appendSilence n s := by
  cases n with
  | none => rfl
  | some n => exact append_withStatus _ st s

/-- The checks before a command's own rule do not read STATUS. -/
theorem whenIdle_whenConfigured_withStatus {st : Status} {s : State} {k k' : Result} (h : k' = k) :
    whenIdle (withStatus st s) (whenConfigured (withStatus st s) k') = whenIdle s (whenConfigured s k) := by
  subst h
  rfl

/-- Settles O56: every way a command ends writes STATUS, and nothing before that reads it. -/
theorem statusIsNotSticky : Obligations.StatusIsNotSticky := by
  intro i st s hi
  cases i with
  | new h => rfl
  | addTone d ms => exact whenIdle_whenConfigured_withStatus (appendTone_withStatus _ _ st s)
  | addToneFreq f ms => exact whenIdle_whenConfigured_withStatus (appendTone_withStatus _ _ st s)
  | addSilence ms => exact whenIdle_whenConfigured_withStatus (appendSilence_withStatus _ st s)
  | write => exact whenIdle_whenConfigured_withStatus (writeList_withStatus st s)
  | segSilence n => cases hi
  | segTone d n => cases hi

end Sys2Proof.Machine

/-! PROOFS. Positions: of a sample in a Tone (40_builder.md section 2), of a segment's phase in the trace
(41_synthesizer.md R152), and of a sample's two bytes in the stream (20_memory.md R55). -/

namespace Sys2Proof.Machine

/-! ### The period of a Tone -/

theorem toneSample_period (c : Config) {d : Nat} (k : Nat) (hd : 1 ≤ d) :
    toneSample c d (k + 2 * d) = toneSample c d k := by
  have hdiv : (k + 2 * d) / d = k / d + 2 := Nat.add_mul_div_right k 2 hd
  rw [toneSample, hdiv, Nat.add_mod_right, toneSample]

theorem toneSample_flip (c : Config) (hc : c.WF) {d : Nat} (k : Nat) (hd : 1 ≤ d) :
    toneSample c d (k + d) ≠ toneSample c d k := by
  have hne := high_ne_low c hc
  rw [toneSample, Nat.add_div_right k hd, toneSample]
  by_cases heven : k / d % 2 = 0
  · rw [if_neg (by omega), if_pos heven]
    exact hne.symm
  · rw [if_pos (by omega), if_neg heven]
    exact hne

/-- Settles O35: `k / d` grows by 2 over two half-cycles and by 1 over one, and only its parity selects the sample. -/
theorem toneHasPeriodTwiceTheDivisor : Obligations.ToneHasPeriodTwiceTheDivisor := by
  refine fun c d n k hc hd => ⟨fun hk => ?_, fun hk => ?_⟩
  · rw [tone_getElem? c d hk, tone_getElem? c d (by omega : k < n), toneSample_period c k hd]
  · rw [tone_getElem? c d hk, tone_getElem? c d (by omega : k < n)]
    exact fun h => toneSample_flip c hc k hd (Option.some.inj h)

/-! ### The trace at a segment -/

/-- The trace has, after those of the entries before it, the phase after entry `e`. -/
theorem listTrace_getElem? (es : List Entry) (e : Entry) (rest : List Entry) (p : Phase) :
    ∃ q, (listTrace (es ++ e :: rest) p)[es.length]? = some (segmentPhase e q) := by
  induction es generalizing p with
  | nil => exact ⟨p, rfl⟩
  | cons e' es ih => simpa [listTrace] using ih (segmentPhase e' p)

/-- The phase after a Tone with samples is that of its last sample (41_synthesizer.md R145). -/
theorem segmentPhase_eq_of_last {c : Config} (hc : c.WF) {e : Entry} (hk : entryKind e = true)
    (hn : 1 ≤ (entryLength e).toNat) (p : Phase) :
    segmentPhase e p = if (segmentSamples c e).getLast? = some (highSample c) then .plus else .minus := by
  have hlast := tone_getLast c (entryDivisor e).toNat (entryLength e).toNat hn
  have hphase := phaseAfterTone_tone c hc (entryDivisor e).toNat (entryLength e).toNat p
  rw [segmentPhase, if_pos hk, ← hphase, segmentSamples, if_pos hk, phaseAfterTone, hlast]
  simp

/-- Settles O37: the trace of the pass at segment i is the phase after that segment, which its last sample decides. -/
theorem traceRecordsLastSample : Obligations.TraceRecordsLastSample := by
  intro s t i e hinv _ ht hi hread
  obtain rfl := Host.Outcome.next.inj ((synthesize_eq_next hinv).symm.trans ht)
  have hfirst : (firstEntries s i).length = i := firstEntries_length fun j hj => hinv.listOk j (hj.trans hi)
  obtain ⟨rest, hlist⟩ := firstEntries_eq_append_cons hi hread
  obtain ⟨q, hq⟩ := listTrace_getElem? (firstEntries s i) e rest .neutral
  rw [hfirst, ← hlist, ← segmentList_eq_firstEntries, ← writeTrace] at hq
  refine ⟨fun hk hn => hq.trans ?_, fun hk => hq.trans ?_⟩
  · rw [segmentPhase_eq_of_last hinv.cfgOk hk hn]
  · rw [segmentPhase, if_neg (by simp [hk])]

/-! ### The bytes of a sample -/

theorem payload_getElem? {samples : List Sample} {k : Nat} {x : Sample} (h : samples[k]? = some x) :
    (payload samples)[2 * k]? = some (x.extractLsb' 0 8) ∧ (payload samples)[2 * k + 1]? = some (x.extractLsb' 8 8) := by
  induction samples generalizing k with
  | nil => cases h
  | cons y ys ih =>
    cases k with
    | zero =>
      obtain rfl : y = x := by simpa using h
      exact ⟨rfl, rfl⟩
    | succ k => exact ih (by simpa using h)

/-- Settles O41: the payload stands after the 44 bytes of the header, two bytes for each sample. -/
theorem sampleOffsets : Obligations.SampleOffsets := by
  intro samples k x hx
  obtain ⟨hlow, hhigh⟩ := payload_getElem? hx
  have hstream (j : Nat) : (encodeStream samples)[44 + j]? = (payload samples)[j]? := by
    rw [encodeStream, List.getElem?_append_right (by simp), header_length, Nat.add_sub_cancel_left]
  exact ⟨(hstream _).trans hlow, (congrArg _ (by omega)).trans ((hstream (2 * k + 1)).trans hhigh)⟩

end Sys2Proof.Machine

/-! PROOFS. WRITE (42_encoder.md): from a state that meets the invariant it raises one of the two statuses of its checks
or ends as `afterWrite` says, whatever the host answers; and one segment at a time it has the same outcome. -/

namespace Sys2Proof.Machine

/-! ### The whole effect -/

/-- The status of a WRITE that delivered its stream (42_encoder.md R187, R188). -/
def deliveryStatus : SinkAnswer → Status
  | .ok => .ok
  | .fail _ => .ioError

/-- A WRITE that passes its checks runs its pass and delivers, whatever the host answers. -/
theorem writeList_eq_afterWrite {s : State} {n : Nat} (hinv : CoreInv s)
    (hsum : lengthSum s.seg s.segCount = some n) (hfits : sizeOverflows n = false) :
    writeList s = .next (afterWrite s.answers.sinkReplace (deliveryStatus s.answers.sinkReplace) s) := by
  rw [writeList_of_fits hsum hfits, synthesize_eq_next hinv, andThen_next, finishWrite_eq]
  simp only [respond, endPass, emitTrace, callSinkReplace, beginPass, afterWrite, writeStream, List.append_assoc,
    List.cons_append, List.nil_append]
  cases s.answers.sinkReplace <;> rfl

/-- Everything a WRITE does from a state that meets the invariant. -/
theorem exec_write_cases {s : State} (hinv : CoreInv s) (hidle : s.segIdx = none) :
    (∃ st, exec .write s = .next (respond st s)) ∨
    exec .write s = .next (afterWrite s.answers.sinkReplace (deliveryStatus s.answers.sinkReplace) s) := by
  cases hc : s.configured with
  | false => exact .inl ⟨_, (whenIdle_idle s _ hidle).trans (whenConfigured_no s _ hc)⟩
  | true =>
    obtain ⟨n, hsum⟩ := lengthSum_isSome s.seg s.segCount hinv.listOk
    have hpass : exec .write s = writeList s := whenIdle_whenConfigured_pass hidle hc _
    rw [hpass]
    cases hfits : sizeOverflows n with
    | true => exact .inl ⟨_, writeList_of_sizeOverflows hsum hfits⟩
    | false => exact .inr (writeList_eq_afterWrite hinv hsum hfits)

theorem exec_write_eq_afterWrite {s : State} {n : Nat} (hinv : CoreInv s) (hidle : s.segIdx = none)
    (hc : s.configured = true) (hsum : lengthSum s.seg s.segCount = some n) (hfits : 2 * n + 44 ≤ 2 ^ 32 - 1) :
    exec .write s = .next (afterWrite s.answers.sinkReplace (deliveryStatus s.answers.sinkReplace) s) :=
  (whenIdle_whenConfigured_pass hidle hc _).trans
    (writeList_eq_afterWrite hinv hsum ((sizeOverflows_eq_false_iff n).mpr hfits))

/-- Settles O42: the checks pass, and the host's answer is ok. -/
theorem writeDeliversTheList : Obligations.WriteDeliversTheList := by
  intro s n hinv hidle hc hsum hfits hok
  rw [exec_write_eq_afterWrite hinv hidle hc hsum hfits, hok, deliveryStatus]

/-- Settles O43: the checks pass, and the host's answer is fail with some content, which the destination then holds. -/
theorem failedWriteLeavesAnyContent : Obligations.FailedWriteLeavesAnyContent := by
  intro s n content hinv hidle hc hsum hfits hfail
  refine ⟨_, exec_write_eq_afterWrite hinv hidle hc hsum hfits, by rw [hfail, deliveryStatus], ?_⟩
  rw [hfail]
  exact Memory.get_set_same _ _ _

/-- Settles O44: what the one write to the destinations leaves there, read by the stream's own laws. -/
theorem destinationHoldsTheStream : Obligations.DestinationHoldsTheStream := by
  intro s t n hinv hidle hc hsum hfits hok ht
  obtain rfl := Host.Outcome.next.inj ((writeDeliversTheList s n hinv hidle hc hsum hfits hok).symm.trans ht)
  have hlength : (listSamples s.cfg (segmentList s)).length = n :=
    Option.some.inj ((lengthSum_eq_listSamples_length s.cfg hinv.listOk).symm.trans hsum)
  refine ⟨⟨writeStream s, Memory.get_set_same _ _ _, rfl, ?_, ?_, ?_⟩, fun h hh => Memory.get_set_other _ _ _ _ hh⟩
  · rw [writeStream, encodeStream_length, hlength]
  · rw [writeStream, encodeStream_take_header, hlength]
  · rw [writeStream, encodeStream_drop_header, samplesOf_payload]

/-- Settles O46: the two kinds of next state field by field, and the status that a WRITE reports. -/
theorem writeKeepsTheList : Obligations.WriteKeepsTheList := by
  intro s hinv hidle
  obtain ⟨t, evs, ht, hstatus, hlog, -⟩ := exec_write_reports hinv hidle
  have hlast : t.log.getLast? = some (.status t.status) := by rw [hlog, List.getLast?_concat]
  obtain ⟨st, h⟩ | h := exec_write_cases hinv hidle
  · obtain rfl := Host.Outcome.next.inj (h.symm.trans ht)
    obtain ⟨hphase, hsamples, -⟩ := hinv.idleClean hidle
    exact ⟨_, h, rfl, rfl, rfl, rfl, rfl, hphase, hsamples, hinv.tmpEmpty, hidle, hstatus, hlast⟩
  · obtain rfl := Host.Outcome.next.inj (h.symm.trans ht)
    exact ⟨_, h, rfl, rfl, rfl, rfl, rfl, rfl, rfl, rfl, rfl, hstatus, hlast⟩

/-- A state whose command has ended, the transient elements gone, meets the invariant when the one before did; what the
destinations hold and the host has seen may differ. -/
theorem coreInv_ended {s : State} (hinv : CoreInv s) {sinks : Memory (List Byte)} (hsinks : sinks.wf = true)
    (st : Status) (log : List Event) :
    CoreInv { endPass s with status := st, sinks := sinks, log := log } :=
  { hinv with
    sinksWf := hsinks
    tmpEmpty := rfl
    sampleValues := fun _ hx => absurd hx List.not_mem_nil
    phaseTraced := rfl
    idleClean := fun _ => ⟨rfl, rfl, rfl⟩
    writing := fun _ h => nomatch h }

theorem coreInv_afterWrite {s : State} (hinv : CoreInv s) (a : SinkAnswer) (st : Status) :
    CoreInv (afterWrite a st s) :=
  coreInv_ended hinv (Memory.set_wf _ _ _ hinv.sinksWf) st _

/-- Settles O47: the state after the first WRITE meets the same conditions, and has the same list and parameters. -/
theorem repeatedWriteIsByteIdentical : Obligations.RepeatedWriteIsByteIdentical := by
  intro s n a hinv hidle hc hsum hfits
  have hafter := coreInv_afterWrite hinv s.answers.sinkReplace (deliveryStatus s.answers.sinkReplace)
  have hagain := exec_write_eq_afterWrite (coreInv_withAnswers hafter a) rfl hc hsum hfits
  exact ⟨_, _, writeStream s, _, _, exec_write_eq_afterWrite hinv hidle hc hsum hfits, hagain,
    List.append_assoc _ _ _⟩

/-! ### The empty list -/

/-- Settles O48: the sum of no lengths fits, the pass of no turns emits nothing, and the header of 0 samples is
computed. -/
theorem emptyWriteIsTheHeader : Obligations.EmptyWriteIsTheHeader := by
  intro s hidle hc hcount hok
  have hsum : lengthSum s.seg s.segCount = some 0 := by rw [hcount, lengthSum]
  have hpass : synthesize s = .next (beginPass s) := by rw [synthesize, hcount, passTurns]
  have hwrite : exec .write s = finishWrite (beginPass s) := by
    refine (whenIdle_whenConfigured_pass hidle hc _).trans ?_
    rw [writeList_of_fits hsum rfl, hpass, andThen_next]
  refine ⟨_, hwrite.trans (finishWrite_eq _), ?_, ?_⟩
  · simp [hok]
  · simp only [respond_log, endPass_log, emitTrace_log, callSinkReplace_log, callSinkReplace_trace, beginPass_log,
      beginPass_trace, beginPass_answers, beginPass_samples, beginPass_dest, hok, List.append_assoc]
    rfl

/-! ### One segment at a time -/

@[simp] theorem entryResult_configured (e : Entry) (s : State) : (entryResult e s).configured = s.configured := by
  unfold entryResult; split <;> rfl

@[simp] theorem entryResult_segCount (e : Entry) (s : State) : (entryResult e s).segCount = s.segCount := by
  unfold entryResult; split <;> rfl

@[simp] theorem entryResult_segIdx (e : Entry) (s : State) : (entryResult e s).segIdx = s.segIdx := by
  unfold entryResult; split <;> rfl

@[simp] theorem entryResult_sinks (e : Entry) (s : State) : (entryResult e s).sinks = s.sinks := by
  unfold entryResult; split <;> rfl

theorem entryResult_tmp (e : Entry) {s : State} (h : s.tmp = []) : (entryResult e s).tmp = [] := by
  unfold entryResult
  split
  · rfl
  · exact h

/-- The steps from SEG_IDX = `i` on are the turns of the pass that are left and the end of the WRITE. -/
theorem runSteps_eq_passTurns (n : Nat) : ∀ (i : Nat) (s : State), s.segIdx = some i → i + n = s.segCount →
    runSteps (n + 1) s = andThen (passTurns n i s) finishWrite := by
  induction n with
  | zero =>
    intro i s hi hn
    have hfinish : step s = finishWrite s := step_end hi (by omega)
    rw [runSteps, hfinish, passTurns, andThen_next, finishWrite_eq]
    rfl
  | succ n ih =>
    intro i s hi hn
    rw [runSteps, step_segment hi (by omega), passTurns, andThen_assoc]
    cases h : segmentTurn runEntry i s with
    | fault x => rfl
    | refused x => rfl
    | next t =>
      obtain ⟨e, -, -, rfl⟩ := (segmentTurn_eq_next_iff i s t).mp h
      exact ih (i + 1) _ (by simp [hi]) (by simp; omega)

/-- Settles O49: the beginning of the pass is at index 0 of a list that the size check lets through. -/
theorem writeIsItsPassStepByStep : Obligations.WriteIsItsPassStepByStep := by
  intro s n hidle hc hsum hfits
  have hpass : exec .write s = writeList s := whenIdle_whenConfigured_pass hidle hc _
  rw [hpass, writeList_of_fits hsum ((sizeOverflows_eq_false_iff n).mpr hfits)]
  exact runSteps_eq_passTurns s.segCount 0 (beginPass s) rfl (by simp)

end Sys2Proof.Machine

/-! PROOFS. The whole machine: the invariant at reset and over every branch of the step, that a state which meets it steps
safely (41_synthesizer.md R155), and what a step does with the Builder and its list (20_memory.md section 1). -/

namespace Sys2Proof.Machine

/-! ### The invariant at reset -/

theorem coreInv_resetOf {c : Config} (hc : c.WF) : CoreInv (State.resetOf c) where
  cfgOk := hc
  countInStore := Nat.zero_le _
  unconfiguredEmpty _ := rfl
  segWf := rfl
  storeOk _ _ h := nomatch h
  listOk _ h := absurd h (Nat.not_lt_zero _)
  sinksWf := rfl
  tmpEmpty := rfl
  sampleValues _ hx := absurd hx List.not_mem_nil
  phaseTraced := rfl
  idleClean _ := ⟨rfl, rfl, rfl⟩
  writing _ h := nomatch h

/-- Settles O50: the invariant of a reset state needs the parameters' constraints alone, and those of `State.reset` meet
them. -/
theorem resetMeetsTheInvariant : Obligations.ResetMeetsTheInvariant :=
  ⟨fun _ => coreInv_resetOf, coreInv_resetOf Config.installed_wf⟩

/-! ### The invariant over the branches of the step -/

section
variable {s : State} (hinv : CoreInv s)
include hinv

theorem coreInv_respond (st : Status) : CoreInv (respond st s) := { hinv with }

/-- An applied reset keeps the parameters and the destinations. -/
theorem coreInv_applyReset : CoreInv (applyReset s) := { coreInv_resetOf hinv.cfgOk with sinksWf := hinv.sinksWf }

/-- A NEW between commands empties the list, so it may set CONFIGURED either way. -/
theorem coreInv_new {t : State} {h : Word64} (hidle : s.segIdx = none) (ht : NewEffect h s t) : CoreInv t := by
  obtain ⟨st, configured, dest, rfl⟩ := ht
  exact { hinv with
    countInStore := Nat.zero_le _
    unconfiguredEmpty := fun _ => rfl
    listOk := fun _ hi => absurd hi (Nat.not_lt_zero _)
    writing := fun i hi => nomatch hidle.symm.trans hi }

/-- The entry goes to the index after the list, which the store has. -/
theorem coreInv_appended {e : Entry} (hidle : s.segIdx = none) (hc : s.configured = true)
    (hroom : s.segCount < s.cfg.maxSegments) (he : entryWf e = true) : CoreInv (appended e s) :=
  { hinv with
    countInStore := hroom
    unconfiguredEmpty := fun h => nomatch hc.symm.trans h
    segWf := Memory.set_wf _ _ _ hinv.segWf
    storeOk := fun i x hx => by
      by_cases hi : i = s.segCount
      · subst hi
        obtain rfl : e = x := Option.some.inj ((Memory.get_set_same _ _ _).symm.trans hx)
        exact ⟨hroom, he⟩
      · exact hinv.storeOk i x ((Memory.get_set_other _ _ _ _ hi).symm.trans hx)
    listOk := fun i hlt => by
      by_cases hi : i = s.segCount
      · subst hi
        exact Option.isSome_iff_exists.mpr ⟨e, Memory.get_set_same _ _ _⟩
      · have hbelow : i < s.segCount := Nat.lt_of_le_of_ne (Nat.le_of_lt_succ hlt) hi
        exact (congrArg Option.isSome (Memory.get_set_other _ _ _ _ hi)).trans (hinv.listOk i hbelow)
    writing := fun i hi => nomatch hidle.symm.trans hi }

theorem coreInv_append {t : State} (hidle : s.segIdx = none) (ht : AppendOutcome s t) : CoreInv t := by
  obtain ⟨hc, hroom, e, he, rfl⟩ | ⟨st, -, rfl⟩ := ht
  · exact coreInv_respond (coreInv_appended hinv hidle hc hroom he) .ok
  · exact coreInv_respond hinv st

theorem exec_coreInv {i : Instr} (hidle : s.segIdx = none) (hi : hostCommand i = true) :
    NextSatisfies CoreInv (exec i s) := by
  have happend (happ : appendCommand i = true) : NextSatisfies CoreInv (exec i s) := fun t ht =>
    coreInv_append hinv hidle (exec_append_outcome happ s t ht)
  cases i with
  | new h => exact fun t ht => coreInv_new hinv hidle (exec_new_effect h s t ht)
  | addTone d ms => exact happend rfl
  | addToneFreq f ms => exact happend rfl
  | addSilence ms => exact happend rfl
  | write =>
    obtain ⟨st, h⟩ | h := exec_write_cases hinv hidle
    · rw [h, nextSatisfies_next_iff]; exact coreInv_respond hinv st
    · rw [h, nextSatisfies_next_iff]; exact coreInv_afterWrite hinv _ _
  | segSilence n => cases hi
  | segTone d n => cases hi

/-- Inside a WRITE, after one more segment: the trace has its phase, SAMPLES its samples and the sum its length. -/
theorem coreInv_advanceSegment {i : Nat} {e : Entry} (hi : s.segIdx = some i) (hlt : i < s.segCount)
    (hread : segRead s i = some e) : CoreInv (advanceSegment (entryResult e s)) where
  cfgOk := by simpa using hinv.cfgOk
  countInStore := by simpa using hinv.countInStore
  unconfiguredEmpty := by simpa using hinv.unconfiguredEmpty
  segWf := by simpa using hinv.segWf
  storeOk := by simpa using hinv.storeOk
  listOk := by simpa using hinv.listOk
  sinksWf := by simpa using hinv.sinksWf
  tmpEmpty := by simpa using entryResult_tmp e hinv.tmpEmpty
  sampleValues := by
    intro x hx
    obtain hx | hx : x ∈ s.samples ∨ x ∈ segmentSamples s.cfg e := by simpa using hx
    · simpa using hinv.sampleValues x hx
    · simpa using segmentSamples_values s.cfg e x hx
  phaseTraced := by simp
  idleClean := by simp [hi]
  writing := by
    intro j hj
    obtain rfl : i + 1 = j := by simpa [hi] using hj
    obtain ⟨hc, -, hlength, hsum, htotal⟩ := hinv.writing i hi
    have hget : s.seg.get i = some e := hread
    exact ⟨by simpa using hc, by simpa using hlt, by simp [hlength], by simp [lengthSum, hsum, hget],
      by simpa using htotal⟩

theorem segmentTurn_coreInv {i : Nat} (hi : s.segIdx = some i) (hlt : i < s.segCount) :
    NextSatisfies CoreInv (segmentTurn runEntry i s) := by
  intro t ht
  obtain ⟨e, hread, -, rfl⟩ := (segmentTurn_eq_next_iff i s t).mp ht
  exact coreInv_advanceSegment hinv hi hlt hread

theorem finishWrite_coreInv : NextSatisfies CoreInv (finishWrite s) := by
  rw [finishWrite_eq, nextSatisfies_next_iff]
  exact coreInv_ended hinv (Memory.set_wf _ _ _ hinv.sinksWf) _ _

theorem step_coreInv : NextSatisfies CoreInv (step s) :=
  nextSatisfies_step
    (hturn := fun _ => segmentTurn_coreInv hinv)
    (hend := fun _ _ _ => finishWrite_coreInv hinv)
    (hstay := fun _ _ => hinv)
    (hreset := fun rest _ _ => coreInv_applyReset (coreInv_takeInput hinv rest))
    (hillegal := fun r rest _ _ =>
      coreInv_respond (coreInv_withAnswers (coreInv_takeInput hinv rest) r.answers) .illegalCommand)
    (hcommand := fun r rest _ hidle _ hdecode =>
      exec_coreInv (coreInv_withAnswers (coreInv_takeInput hinv rest) r.answers) hidle
        (hostCommand_of_decodeCommand hdecode))

end

/-- Settles O51: each branch of the step keeps the invariant. -/
theorem stepKeepsTheInvariant : Obligations.StepKeepsTheInvariant := fun _ t hinv ht => step_coreInv hinv t ht

/-! ### Safety -/

theorem not_zeroDivisorTone_of_entryWf {e : Entry} (h : entryWf e = true) : ¬zeroDivisorTone e := by
  rintro ⟨hk, hd, -⟩
  simp [entryWf, hk, Instr.toneDivisorOk, hd] at h

theorem safeStep_of_next {s t : State} (h : step s = .next t) : safeStep s := by
  unfold safeStep
  rw [h]
  trivial

/-- Settles O52: inside a WRITE the entry is written and well-formed, or the list is at its end; between commands a
request reports a status unless it overlaps. -/
theorem stepsAreSafe : Obligations.StepsAreSafe := by
  intro s hinv
  cases hidx : s.segIdx with
  | some i =>
    by_cases hlt : i < s.segCount
    · obtain ⟨e, he⟩ := Option.isSome_iff_exists.mp (hinv.listOk i hlt)
      obtain ⟨-, hwf⟩ := hinv.storeOk i e he
      have hturn := (segmentTurn_eq_next_iff i s _).mpr ⟨e, he, not_zeroDivisorTone_of_entryWf hwf, rfl⟩
      exact safeStep_of_next ((step_segment hidx hlt).trans hturn)
    · exact safeStep_of_next ((step_end hidx (Nat.not_lt.mp hlt)).trans (finishWrite_eq s))
  | none =>
    cases hinbox : s.inbox with
    | nil => exact safeStep_of_next (step_idle hidx hinbox)
    | cons input rest =>
      cases input with
      | reset => exact safeStep_of_next (step_reset hidx hinbox)
      | command r =>
        cases ho : r.overlaps with
        | true =>
          have hrefused := (step_command hidx hinbox).trans (runRequest_overlaps exec r _ ho)
          simp [safeStep, hrefused, nextOverlaps, hidx, hinbox, ho]
        | false =>
          obtain ⟨t, -, ht, -⟩ := runRequest_reports (coreInv_takeInput hinv rest) hidx ho
          exact safeStep_of_next ((step_command hidx hinbox).trans ht)

/-! ### What a step does with the Builder and its list -/

/-- Whether there is a Builder, and its list. -/
def builderOf (s : State) : Bool × Nat × Memory Entry := (s.configured, s.segCount, s.seg)

/-- The meaning's next state, if it answers one, has the Builder and list `b`. -/
abbrev KeepsBuilder (b : Bool × Nat × Memory Entry) : Result → Prop := NextSatisfies fun t => builderOf t = b

theorem segmentTurn_keepsBuilder (i : Nat) (s : State) : KeepsBuilder (builderOf s) (segmentTurn runEntry i s) := by
  intro t ht
  obtain ⟨e, -, -, rfl⟩ := (segmentTurn_eq_next_iff i s t).mp ht
  simp [builderOf]

theorem passTurns_keepsBuilder (n i : Nat) (s : State) : KeepsBuilder (builderOf s) (passTurns n i s) := by
  induction n generalizing i s with
  | zero => simp [passTurns]
  | succ n ih => exact nextSatisfies_andThen (segmentTurn_keepsBuilder i s) fun s1 h1 => h1 ▸ ih (i + 1) s1

theorem finishWrite_keepsBuilder (s : State) : KeepsBuilder (builderOf s) (finishWrite s) := by
  rw [finishWrite_eq]
  exact (nextSatisfies_next_iff _).mpr rfl

theorem writeList_keepsBuilder (s : State) : KeepsBuilder (builderOf s) (writeList s) := by
  unfold writeList
  split
  · simp
  · split
    · exact (nextSatisfies_next_iff _).mpr rfl
    · exact nextSatisfies_andThen (passTurns_keepsBuilder s.segCount 0 (beginPass s)) fun s1 h1 =>
        h1 ▸ finishWrite_keepsBuilder s1

theorem exec_write_keepsBuilder (s : State) : KeepsBuilder (builderOf s) (exec .write s) :=
  nextSatisfies_whenIdle (nextSatisfies_whenConfigured rfl (writeList_keepsBuilder s))

/-- NEW leaves an empty list, and a Builder only for its handle when the host answers true. -/
theorem exec_new_builder (h : Word64) (s : State) :
    NextSatisfies (fun t => t.segCount = 0 ∧ (t.configured = true → s.answers.destExists = true ∧ t.dest = h))
      (exec (.new h) s) := by
  refine nextSatisfies_whenIdle ?_
  split
  · next hyes => exact (nextSatisfies_next_iff _).mpr ⟨rfl, fun _ => ⟨hyes, rfl⟩⟩
  · exact (nextSatisfies_next_iff _).mpr ⟨rfl, fun h => nomatch h⟩

/-- Everything a step that takes `s` to `t` can have done with the Builder and its list. -/
inductive BuilderChange (s t : State) : Prop
  | kept (h : builderOf t = builderOf s)
  | appended (e : Entry) (h : builderOf t = (s.configured, s.segCount + 1, s.seg.set s.segCount e))
  | reset (rest : List HostInput) (hinbox : s.inbox = .reset :: rest) (hcount : t.segCount = 0)
      (hc : t.configured = false)
  | new (r : Request) (rest : List HostInput) (h : Word64) (hinbox : s.inbox = .command r :: rest)
      (hdecode : decodeCommand r.command = .ok (.new h)) (hcount : t.segCount = 0)
      (hc : t.configured = true → r.answers.destExists = true ∧ t.dest = h)

theorem exec_builderChange {s : State} {r : Request} {rest : List HostInput} {i : Instr}
    (hinbox : s.inbox = .command r :: rest) (hdecode : decodeCommand r.command = .ok i) :
    NextSatisfies (BuilderChange s) (exec i (withAnswers r.answers (takeInput rest s))) := by
  have happend (happ : appendCommand i = true) :
      NextSatisfies (BuilderChange s) (exec i (withAnswers r.answers (takeInput rest s))) := by
    intro t ht
    obtain ⟨-, -, e, -, rfl⟩ | ⟨st, -, rfl⟩ := exec_append_outcome happ _ t ht
    · exact .appended e rfl
    · exact .kept rfl
  cases i with
  | new h =>
    intro t ht
    obtain ⟨hcount, hc⟩ := exec_new_builder h _ t ht
    exact .new r rest h hinbox hdecode hcount hc
  | addTone d ms => exact happend rfl
  | addToneFreq f ms => exact happend rfl
  | addSilence ms => exact happend rfl
  | write => exact fun t ht => .kept (exec_write_keepsBuilder (withAnswers r.answers (takeInput rest s)) t ht)
  | segSilence n => cases hostCommand_of_decodeCommand hdecode
  | segTone d n => cases hostCommand_of_decodeCommand hdecode

theorem step_builderChange (s : State) : NextSatisfies (BuilderChange s) (step s) :=
  nextSatisfies_step
    (hturn := fun i _ _ t ht => .kept (segmentTurn_keepsBuilder i s t ht))
    (hend := fun _ _ _ t ht => .kept (finishWrite_keepsBuilder s t ht))
    (hstay := fun _ _ => .kept rfl)
    (hreset := fun rest _ hinbox => .reset rest hinbox rfl rfl)
    (hillegal := fun _ _ _ _ => .kept rfl)
    (hcommand := fun _ _ _ _ hinbox hdecode => exec_builderChange hinbox hdecode)

/-- Settles O55: an append writes past the list, a reset and a NEW leave no entry in it, and nothing else writes it. -/
theorem listOnlyGrowsExceptByNew : Obligations.ListOnlyGrowsExceptByNew := by
  intro s t ht
  cases step_builderChange s t ht with
  | kept h =>
    obtain ⟨-, hcount, hseg⟩ : t.configured = s.configured ∧ t.segCount = s.segCount ∧ t.seg = s.seg := by
      simpa [builderOf] using h
    exact ⟨fun i _ _ => by rw [segRead, hseg, segRead], fun hlt => by omega⟩
  | appended e h =>
    obtain ⟨-, hcount, hseg⟩ :
        t.configured = s.configured ∧ t.segCount = s.segCount + 1 ∧ t.seg = s.seg.set s.segCount e := by
      simpa [builderOf] using h
    refine ⟨fun i hi _ => ?_, fun hlt => by omega⟩
    rw [segRead, hseg, Memory.get_set_other _ _ _ _ (Nat.ne_of_lt hi), segRead]
  | reset rest hinbox hcount hc => exact ⟨fun i _ hi => by omega, fun _ => .inl ⟨rest, hinbox⟩⟩
  | new r rest h hinbox hdecode hcount hc =>
    exact ⟨fun i _ hi => by omega, fun _ => .inr ⟨r, rest, h, hinbox, hdecode⟩⟩

/-- Settles O57: of all that a step can do with the Builder only a NEW sets CONFIGURED. -/
theorem onlyNewMakesABuilder : Obligations.OnlyNewMakesABuilder := by
  intro s t ht hbefore hafter
  cases step_builderChange s t ht with
  | kept h => exact nomatch hbefore.symm.trans ((congrArg Prod.fst h).symm.trans hafter)
  | appended e h => exact nomatch hbefore.symm.trans ((congrArg Prod.fst h).symm.trans hafter)
  | reset rest hinbox hcount hc => exact nomatch hc.symm.trans hafter
  | new r rest h hinbox hdecode hcount hc =>
    obtain ⟨hyes, hdest⟩ := hc hafter
    exact ⟨r, rest, h, hinbox, hdecode, hyes, hdest⟩

end Sys2Proof.Machine

/-! PROOFS. What the spec leaves unspecified is never observed (93_implementation_defined.md I6, I7): a state with another
DEST and store, which agree with its own where they are specified, runs every command and every segment to the same
outcome. -/

namespace Sys2Proof.Machine

/-- DEST and the store overwritten. -/
def respecify (d : Word64) (m : Memory Entry) (s : State) : State := { s with dest := d, seg := m }

/-- The handle and the store are those of `s` where they are specified: with a Builder, and on the list. -/
def Agrees (d : Word64) (m : Memory Entry) (s : State) : Prop :=
  (s.configured = true → s.dest = d) ∧ ∀ i, i < s.segCount → s.seg.get i = m.get i

theorem sameSpecified_iff (s t : State) : sameSpecified s t ↔ ∃ d m, Agrees d m s ∧ t = respecify d m s := by
  constructor
  · rintro ⟨ht, hagrees⟩
    exact ⟨t.dest, t.seg, hagrees, ht.symm⟩
  · rintro ⟨d, m, hagrees, rfl⟩
    exact ⟨rfl, hagrees⟩

/-- The sum of the lengths reads the list alone. -/
theorem lengthSum_congr {m m' : Memory Entry} {n : Nat} (h : ∀ i, i < n → m.get i = m'.get i) :
    lengthSum m n = lengthSum m' n := by
  induction n with
  | zero => rfl
  | succ n ih => rw [lengthSum, lengthSum, ih fun i hi => h i (Nat.lt_succ_of_lt hi), h n (Nat.lt_succ_self n)]

section
variable {d : Word64} {m : Memory Entry} {s : State} (h : Agrees d m s)
include h

theorem segRead_respecify {i : Nat} (hi : i < s.segCount) : segRead (respecify d m s) i = segRead s i := by
  obtain ⟨-, hseg⟩ := h
  exact (hseg i hi).symm

theorem segmentList_respecify : segmentList (respecify d m s) = segmentList s :=
  List.filterMap_congr fun _ hi => segRead_respecify h (List.mem_range.mp hi)

theorem sameOutcome_respond (st : Status) :
    sameOutcome (.next (respond st s)) (.next (respond st (respecify d m s))) := ⟨rfl, h⟩

/-! ### Inside a WRITE -/

/-- A turn runs the same entry, which reads neither DEST nor the store. -/
theorem segmentTurn_sameOutcome {i : Nat} (hinv : CoreInv s) (hi : i < s.segCount) :
    sameOutcome (segmentTurn runEntry i s) (segmentTurn runEntry i (respecify d m s)) := by
  obtain ⟨e, he⟩ := Option.isSome_iff_exists.mp (hinv.listOk i hi)
  obtain ⟨-, hwf⟩ := hinv.storeOk i e he
  have hrun := not_zeroDivisorTone_of_entryWf hwf
  have hcarry : entryResult e (respecify d m s) = respecify d m (entryResult e s) := by
    unfold entryResult
    split <;> rfl
  have hagrees : Agrees d m (advanceSegment (entryResult e s)) := by
    refine ⟨fun hc => ?_, fun j hj => ?_⟩
    · have hdest : (entryResult e s).dest = s.dest := by unfold entryResult; split <;> rfl
      exact hdest.trans (h.1 (by simpa using hc))
    · simpa using h.2 j (by simpa using hj)
  rw [(segmentTurn_eq_next_iff i s _).mpr ⟨e, he, hrun, rfl⟩,
    (segmentTurn_eq_next_iff i (respecify d m s) _).mpr ⟨e, (segRead_respecify h hi).trans he, hrun, rfl⟩, hcarry]
  exact ⟨rfl, hagrees⟩

/-- The end of a WRITE delivers to DEST, which is specified then. -/
theorem finishWrite_sameOutcome (hc : s.configured = true) :
    sameOutcome (finishWrite s) (finishWrite (respecify d m s)) := by
  obtain ⟨hdest, hseg⟩ := h
  obtain rfl := hdest hc
  rw [finishWrite_eq, finishWrite_eq]
  exact ⟨rfl, fun _ => rfl, hseg⟩

/-! ### The commands -/

omit h in
/-- A NEW writes DEST or leaves no Builder, and empties the list. -/
theorem execNew_sameOutcome (hidle : s.segIdx = none) (a : Word64) :
    sameOutcome (execNew a s) (execNew a (respecify d m s)) := by
  have hempty (i : Nat) (hi : i < 0) : s.seg.get i = m.get i := absurd hi (Nat.not_lt_zero i)
  cases hyes : s.answers.destExists with
  | true =>
    rw [execNew_of_destExists hidle hyes, execNew_of_destExists (s := respecify d m s) hidle hyes]
    exact ⟨rfl, fun _ => rfl, hempty⟩
  | false =>
    rw [execNew_of_not_destExists hidle hyes, execNew_of_not_destExists (s := respecify d m s) hidle hyes]
    exact ⟨rfl, fun hc => absurd hc Bool.false_ne_true, hempty⟩

/-- The entry goes to the index after the list in both stores. -/
theorem append_sameOutcome (hinv : CoreInv s) (e : Entry) : sameOutcome (append e s) (append e (respecify d m s)) := by
  obtain ⟨hdest, hseg⟩ := h
  obtain hroom | hfull := Nat.lt_or_eq_of_le hinv.countInStore
  · rw [append_room e hroom, append_room e (s := respecify d m s) hroom]
    refine ⟨rfl, hdest, fun i hi => ?_⟩
    change (s.seg.set s.segCount e).get i = (m.set s.segCount e).get i
    by_cases hnew : i = s.segCount
    · rw [hnew, Memory.get_set_same, Memory.get_set_same]
    · have hold : i < s.segCount := Nat.lt_of_le_of_ne (Nat.le_of_lt_succ hi) hnew
      rw [Memory.get_set_other _ _ _ _ hnew, Memory.get_set_other _ _ _ _ hnew, hseg i hold]
  · rw [append_full e hfull, append_full e (s := respecify d m s) hfull]
    exact ⟨rfl, hdest, hseg⟩

theorem appendTone_sameOutcome (hinv : CoreInv s) (a n : Option Nat) :
    sameOutcome (appendTone a n s) (appendTone a n (respecify d m s)) := by
  cases a with
  | none => exact sameOutcome_respond h .invalidParameter
  | some a =>
    cases n with
    | none => exact sameOutcome_respond h .invalidParameter
    | some n => exact append_sameOutcome h hinv _

theorem appendSilence_sameOutcome (hinv : CoreInv s) (n : Option Nat) :
    sameOutcome (appendSilence n s) (appendSilence n (respecify d m s)) := by
  cases n with
  | none => exact sameOutcome_respond h .invalidParameter
  | some n => exact append_sameOutcome h hinv _

/-- The list, its lengths and DEST are the same, so the stream and the trace are. -/
theorem writeList_sameOutcome (hinv : CoreInv s) (hinv' : CoreInv (respecify d m s)) (hc : s.configured = true) :
    sameOutcome (writeList s) (writeList (respecify d m s)) := by
  obtain ⟨n, hsum⟩ := lengthSum_isSome s.seg s.segCount hinv.listOk
  have hsum' : lengthSum (respecify d m s).seg s.segCount = some n := (lengthSum_congr h.2).symm.trans hsum
  cases hfits : sizeOverflows n with
  | true =>
    rw [writeList_of_sizeOverflows hsum hfits, writeList_of_sizeOverflows hsum' hfits]
    exact sameOutcome_respond h .sizeOverflow
  | false =>
    rw [writeList_eq_afterWrite hinv hsum hfits, writeList_eq_afterWrite hinv' hsum' hfits]
    have hlist := segmentList_respecify h
    have hstream : writeStream (respecify d m s) = writeStream s := by rw [writeStream, hlist]; rfl
    have htrace : writeTrace (respecify d m s) = writeTrace s := by rw [writeTrace, hlist, writeTrace]
    obtain rfl : s.dest = d := h.1 hc
    refine ⟨?_, fun _ => rfl, h.2⟩
    simp only [afterWrite, hstream, htrace]
    rfl

/-- The checks before a command's own rule take the same branch. -/
theorem whenIdle_whenConfigured_sameOutcome {k k' : Result} (hidle : s.segIdx = none)
    (hk : s.configured = true → sameOutcome k k') :
    sameOutcome (whenIdle s (whenConfigured s k))
      (whenIdle (respecify d m s) (whenConfigured (respecify d m s) k')) := by
  rw [whenIdle_idle s _ hidle, whenIdle_idle (respecify d m s) _ hidle]
  cases hc : s.configured with
  | true => rw [whenConfigured_yes s k hc, whenConfigured_yes (respecify d m s) k' hc]; exact hk hc
  | false =>
    rw [whenConfigured_no s k hc, whenConfigured_no (respecify d m s) k' hc]
    exact sameOutcome_respond h .notConfigured

theorem exec_sameOutcome {i : Instr} (hinv : CoreInv s) (hinv' : CoreInv (respecify d m s)) (hidle : s.segIdx = none)
    (hi : hostCommand i = true) : sameOutcome (exec i s) (exec i (respecify d m s)) := by
  cases i with
  | new a => exact execNew_sameOutcome hidle a
  | addTone a b => exact whenIdle_whenConfigured_sameOutcome h hidle fun _ => appendTone_sameOutcome h hinv _ _
  | addToneFreq a b => exact whenIdle_whenConfigured_sameOutcome h hidle fun _ => appendTone_sameOutcome h hinv _ _
  | addSilence b => exact whenIdle_whenConfigured_sameOutcome h hidle fun _ => appendSilence_sameOutcome h hinv _
  | write => exact whenIdle_whenConfigured_sameOutcome h hidle (writeList_sameOutcome h hinv hinv')
  | segSilence n => cases hi
  | segTone a n => cases hi

theorem runRequest_sameOutcome (r : Request) (hinv : CoreInv s) (hinv' : CoreInv (respecify d m s))
    (hidle : s.segIdx = none) : sameOutcome (runRequest exec r s) (runRequest exec r (respecify d m s)) := by
  have hready : Agrees d m (withAnswers r.answers s) := h
  cases ho : r.overlaps with
  | true =>
    rw [runRequest_overlaps exec r _ ho, runRequest_overlaps exec r _ ho]
    rfl
  | false =>
    cases hdecode : decodeCommand r.command with
    | error x =>
      rw [runRequest_illegal exec r _ x ho hdecode, runRequest_illegal exec r _ x ho hdecode]
      exact sameOutcome_respond hready .illegalCommand
    | ok i =>
      rw [runRequest_ok exec r _ i ho hdecode, runRequest_ok exec r _ i ho hdecode]
      exact exec_sameOutcome hready (coreInv_withAnswers hinv r.answers) (coreInv_withAnswers hinv' r.answers) hidle
        (hostCommand_of_decodeCommand hdecode)

/-- Both states take the same branch of the step, SEG_IDX and the host's inputs being the same. -/
theorem step_sameOutcome (hinv : CoreInv s) (hinv' : CoreInv (respecify d m s)) :
    sameOutcome (step s) (step (respecify d m s)) := by
  cases hidx : s.segIdx with
  | some i =>
    by_cases hlt : i < s.segCount
    · rw [step_segment hidx hlt, step_segment (s := respecify d m s) hidx hlt]
      exact segmentTurn_sameOutcome h hinv hlt
    · rw [step_end hidx (Nat.not_lt.mp hlt), step_end (s := respecify d m s) hidx (Nat.not_lt.mp hlt)]
      obtain ⟨hc, -⟩ := hinv.writing i hidx
      exact finishWrite_sameOutcome h hc
  | none =>
    cases hinbox : s.inbox with
    | nil =>
      rw [step_idle hidx hinbox, step_idle (s := respecify d m s) hidx hinbox]
      exact ⟨rfl, h⟩
    | cons input rest =>
      cases input with
      | reset =>
        rw [step_reset hidx hinbox, step_reset (s := respecify d m s) hidx hinbox]
        exact ⟨rfl, fun _ => rfl, fun _ _ => rfl⟩
      | command r =>
        rw [step_command hidx hinbox, step_command (s := respecify d m s) hidx hinbox]
        exact runRequest_sameOutcome (s := takeInput rest s) h r (coreInv_takeInput hinv rest)
          (coreInv_takeInput hinv' rest) hidx

end

/-- Settles O58: the second state is the first with a DEST and a store that agree with its own. -/
theorem unspecifiedValuesAreUnobservable : Obligations.UnspecifiedValuesAreUnobservable := by
  intro s t hinv hinv' hsame
  obtain ⟨d, m, hagrees, rfl⟩ := (sameSpecified_iff s t).mp hsame
  exact step_sameOutcome hagrees hinv hinv'

end Sys2Proof.Machine

/-! PROOFS. Exact values (30_encoding.md R76): the value of a fraction, of its floor and of a finite datum, and with them
the two conversions in EXACT mode (40_builder.md R101, R102). -/

namespace Sys2Proof.Machine

/-! ### The value of a fraction -/

theorem scaled_value (m : Nat) (e : Int) : (scaled m e).value = m * (2 : ℚ) ^ e := by
  cases e with
  | ofNat k => simp [scaled, Frac.value, Nat.shiftLeft_eq]
  | negSucc k => simp [scaled, Frac.value, Nat.shiftLeft_eq, zpow_negSucc, div_eq_mul_inv]

theorem scaled_den_pos (m : Nat) (e : Int) : 0 < (scaled m e).den := by
  cases e with
  | ofNat k => exact Nat.one_pos
  | negSucc k => simp [scaled, Nat.shiftLeft_eq]

@[simp] theorem Frac.times_value (x : Frac) (n : Nat) : (x.times n).value = x.value * n := by
  simp only [Frac.times, Frac.value, Nat.cast_mul]
  ring

@[simp] theorem Frac.over_value (x : Frac) (n : Nat) : (x.over n).value = x.value / n := by
  simp only [Frac.over, Frac.value, Nat.cast_mul, div_div]

@[simp] theorem Frac.under_value (n : Nat) (x : Frac) : (Frac.under n x).value = n / x.value := by
  simp only [Frac.under, Frac.value, Nat.cast_mul, div_div_eq_mul_div]

theorem Frac.floor_eq (x : Frac) : (x.floor : ℤ) = ⌊x.value⌋ := by
  rw [Frac.value, Rat.floor_natCast_div_natCast, Frac.floor, Int.natCast_ediv]

theorem Frac.value_nonneg (x : Frac) : 0 ≤ x.value := div_nonneg (Nat.cast_nonneg _) (Nat.cast_nonneg _)

/-! ### The value of a word -/

@[simp] theorem finiteValue_false (m : Nat) (e : Int) : finiteValue false m e = m * (2 : ℚ) ^ e := by
  simp [finiteValue]

theorem finiteValue_true (m : Nat) (e : Int) : finiteValue true m e = -(m * (2 : ℚ) ^ e) := by
  simp [finiteValue]

/-- A word whose exponent field is not 2047 is a finite datum of the word's exact value. -/
theorem b64val_finite {w : Word64} (h : b64exponent w ≠ 2047) :
    ∃ m e, b64val w = .finite (b64sign w) m e ∧ finiteDatum m e ∧ b64real w = finiteValue (b64sign w) m e := by
  have hfraction : b64fraction w < 2 ^ 52 := BitVec.isLt _
  have hexponent : b64exponent w < 2 ^ 11 := BitVec.isLt _
  unfold b64val b64real finiteValue finiteDatum
  rw [if_neg h]
  by_cases hzero : b64exponent w = 0
  · refine ⟨b64fraction w, -1074, by rw [if_pos hzero], by omega, ?_⟩
    rw [if_pos hzero, mul_assoc, show (-1074 : ℤ) = -1022 - 52 by rfl, zpow_sub₀ two_ne_zero]
    ring
  · refine ⟨2 ^ 52 + b64fraction w, b64exponent w - 1075, by rw [if_neg hzero], by omega, ?_⟩
    rw [if_neg hzero, mul_assoc, show (b64exponent w : ℤ) - 1075 = b64exponent w - 1023 - 52 by ring,
      zpow_sub₀ (two_ne_zero (α := ℚ)) _ 52]
    push_cast
    ring

/-- A word whose exponent field is 2047 is a NaN or an infinity. -/
theorem b64val_of_exponent {w : Word64} (h : b64exponent w = 2047) :
    b64val w = .nan ∨ ∃ neg, b64val w = .infinity neg := by
  unfold b64val
  rw [if_pos h]
  split
  · exact .inr ⟨_, rfl⟩
  · exact .inl rfl

/-- What the conversions take from the sign of a finite datum. -/
theorem finiteValue_neg_iff (neg : Bool) (m : Nat) (e : Int) : finiteValue neg m e < 0 ↔ neg = true ∧ m ≠ 0 := by
  have hpos : (0 : ℚ) < 2 ^ e := zpow_pos two_pos e
  cases neg with
  | false => simpa using mul_nonneg (Nat.cast_nonneg m) hpos.le
  | true => simp [finiteValue_true, mul_pos_iff_of_pos_right hpos, Nat.pos_iff_ne_zero]

theorem finiteValue_nonpos_iff (neg : Bool) (m : Nat) (e : Int) : finiteValue neg m e ≤ 0 ↔ neg = true ∨ m = 0 := by
  have hpos : (0 : ℚ) < 2 ^ e := zpow_pos two_pos e
  cases neg with
  | false => simp [mul_nonpos_iff_pos_imp_nonpos, hpos.not_ge]
  | true => simpa [finiteValue_true] using mul_nonneg (Nat.cast_nonneg m) hpos.le

/-- A finite datum that is not negative has the value of its fraction. -/
theorem finiteValue_eq_scaled {neg : Bool} {m : Nat} {e : Int} (h : 0 ≤ finiteValue neg m e) :
    finiteValue neg m e = (scaled m e).value := by
  rw [scaled_value]
  cases neg with
  | false => simp
  | true =>
    obtain rfl : m = 0 := by
      by_contra hm
      exact absurd ((finiteValue_neg_iff true m e).mpr ⟨rfl, hm⟩) h.not_gt
    simp [finiteValue]

/-! ### The conversions of a word -/

/-- `msToSamples` by the value of the word (40_builder.md R101). -/
theorem msToSamples_cases (mode : NumericMode) (w : Word64) :
    ((b64exponent w = 2047 ∨ b64real w < 0) ∧ msToSamples mode w = none) ∨
    (b64exponent w ≠ 2047 ∧ ∃ m e, finiteDatum m e ∧ b64real w = (scaled m e).value ∧
      msToSamples mode w = (durationSamples mode (scaled m e)).bind lengthInRange) := by
  by_cases h : b64exponent w = 2047
  · obtain hw | ⟨neg, hw⟩ := b64val_of_exponent h
    · exact .inl ⟨.inl h, by simp [msToSamples, hw]⟩
    · exact .inl ⟨.inl h, by simp [msToSamples, hw]⟩
  · obtain ⟨m, e, hw, hdatum, hreal⟩ := b64val_finite h
    by_cases hneg : b64real w < 0
    · have hsign := (finiteValue_neg_iff _ m e).mp (hreal ▸ hneg)
      exact .inl ⟨.inr hneg, by simp [msToSamples, hw, hsign]⟩
    · have hsign := mt (finiteValue_neg_iff _ m e).mpr (hreal ▸ hneg)
      have hvalue := finiteValue_eq_scaled (hreal ▸ not_lt.mp hneg)
      exact .inr ⟨h, m, e, hdatum, hreal.trans hvalue, by rw [msToSamples, hw]; exact if_neg hsign⟩

/-- `freqToDivisor` by the value of the word (40_builder.md R102). -/
theorem freqToDivisor_cases (mode : NumericMode) (w : Word64) :
    ((b64exponent w = 2047 ∨ b64real w ≤ 0) ∧ freqToDivisor mode w = none) ∨
    (b64exponent w ≠ 2047 ∧ 0 < b64real w ∧ ∃ m e, b64real w = (scaled m e).value ∧
      freqToDivisor mode w = (frequencyDivisor mode (scaled m e)).bind divisorInRange) := by
  by_cases h : b64exponent w = 2047
  · obtain hw | ⟨neg, hw⟩ := b64val_of_exponent h
    · exact .inl ⟨.inl h, by simp [freqToDivisor, hw]⟩
    · exact .inl ⟨.inl h, by simp [freqToDivisor, hw]⟩
  · obtain ⟨m, e, hw, -, hreal⟩ := b64val_finite h
    by_cases hneg : b64real w ≤ 0
    · have hsign := (finiteValue_nonpos_iff _ m e).mp (hreal ▸ hneg)
      exact .inl ⟨.inr hneg, by rw [freqToDivisor, hw]; exact if_pos hsign⟩
    · have hsign := mt (finiteValue_nonpos_iff _ m e).mpr (hreal ▸ hneg)
      have hvalue := finiteValue_eq_scaled (hreal ▸ (not_le.mp hneg).le)
      exact .inr ⟨h, not_le.mp hneg, m, e, hreal.trans hvalue, by rw [freqToDivisor, hw]; exact if_neg hsign⟩

/-! ### EXACT mode -/

theorem lengthInRange_eq (n : Nat) : lengthInRange n = if (2 ^ 32 - 1 : ℤ) < n then none else some n := by
  unfold lengthInRange lenMax
  by_cases h : n ≤ 2 ^ 32 - 1
  · rw [if_pos h, if_neg (by omega)]
  · rw [if_neg h, if_pos (by omega)]

theorem divisorInRange_eq (n : Nat) :
    divisorInRange n = if (n : ℤ) < 1 ∨ (2 ^ 63 - 1 : ℤ) < n then none else some n := by
  unfold divisorInRange divMax
  by_cases h : 1 ≤ n ∧ n ≤ 2 ^ 63 - 1
  · rw [if_pos h, if_neg (by omega)]
  · rw [if_neg h, if_pos (by omega)]

/-- Settles O22: the floor of 96 times the fraction is that of 96 times the value, then the check against LEN_MAX. -/
theorem exactDurationIsFloorOf96Times : Obligations.ExactDurationIsFloorOf96Times := by
  intro w
  obtain ⟨hinvalid, h⟩ | ⟨hfinite, m, e, -, hreal, h⟩ := msToSamples_cases .exact w
  · rw [h, if_pos (by tauto)]
  · have hfloor : ⌊96 * b64real w⌋ = (((scaled m e).times 96).floor : ℤ) := by
      rw [Frac.floor_eq, Frac.times_value, hreal, mul_comm]
      rfl
    have hnonneg : ¬b64real w < 0 := hreal ▸ (Frac.value_nonneg _).not_gt
    rw [h, hfloor]
    simp only [hfinite, hnonneg, false_or, Int.toNat_natCast]
    exact lengthInRange_eq _

/-- Settles O23: the floor of 48000 over the fraction is that of 48000 over the value, then the check of 1..DIV_MAX. -/
theorem exactDivisorIsFloorOfQuotient : Obligations.ExactDivisorIsFloorOfQuotient := by
  intro w
  obtain ⟨hinvalid, h⟩ | ⟨hfinite, hpos, m, e, hreal, h⟩ := freqToDivisor_cases .exact w
  · rw [h, if_pos (by tauto)]
  · have hfloor : ⌊48000 / b64real w⌋ = ((Frac.under 48000 (scaled m e)).floor : ℤ) := by
      rw [Frac.floor_eq, Frac.under_value, hreal]
      rfl
    rw [h, hfloor]
    simp only [hfinite, hpos.not_ge, false_or, Int.toNat_natCast]
    exact divisorInRange_eq _

end Sys2Proof.Machine

/-! PROOFS. Rounding to binary64 (00_scope.md R12). A fraction in units of the last place is rounded to an integer, the
even one of two as near; that integer is the mantissa of a nearest finite datum, because the data at lower exponents lie
below the binade and those at higher ones are integers in the same units. -/

namespace Sys2Proof.Machine

/-! ### The logarithm and the unit in the last place -/

theorem value_shiftLeft_num (x : Frac) (k : Nat) : (Frac.mk (x.num <<< k) x.den).value = x.value * 2 ^ k := by
  simp only [Frac.value, Nat.shiftLeft_eq, Nat.cast_mul, Nat.cast_pow, Nat.cast_ofNat]
  ring

theorem value_shiftLeft_den (x : Frac) (k : Nat) : (Frac.mk x.num (x.den <<< k)).value = x.value / 2 ^ k := by
  simp only [Frac.value, Nat.shiftLeft_eq, Nat.cast_mul, Nat.cast_pow, Nat.cast_ofNat, div_div]

/-- A fraction is at least 1 exactly when its numerator is at least its denominator. -/
theorem one_le_value_iff {x : Frac} (hden : 0 < x.den) : 1 ≤ x.value ↔ x.den ≤ x.num := by
  rw [Frac.value, one_le_div (by exact_mod_cast hden), Nat.cast_le]

@[simp] theorem Frac.inUnits_value (x : Frac) (e : Int) : (x.inUnits e).value = x.value / (2 : ℚ) ^ e := by
  cases e with
  | ofNat k => exact value_shiftLeft_den x k
  | negSucc k => rw [zpow_negSucc, div_inv_eq_mul]; exact value_shiftLeft_num x (k + 1)

theorem Frac.inUnits_den_pos {x : Frac} (hden : 0 < x.den) (e : Int) : 0 < (x.inUnits e).den := by
  cases e with
  | ofNat k => simpa [Frac.inUnits, Nat.shiftLeft_eq] using hden
  | negSucc k => exact hden

/-- The comparison that `Frac.log2` makes. -/
theorem Frac.log2_eq {x : Frac} (hden : 0 < x.den) :
    x.log2 = if (2 : ℚ) ^ ((Nat.log2 x.num : ℤ) - Nat.log2 x.den) ≤ x.value
      then (Nat.log2 x.num : ℤ) - Nat.log2 x.den else (Nat.log2 x.num : ℤ) - Nat.log2 x.den - 1 := by
  have hunits (e : Int) : (2 : ℚ) ^ e ≤ x.value ↔ (x.inUnits e).den ≤ (x.inUnits e).num := by
    rw [← one_le_value_iff (inUnits_den_pos hden e), inUnits_value, one_le_div (zpow_pos two_pos e)]
  unfold Frac.log2
  cases hk : (Nat.log2 x.num : ℤ) - Nat.log2 x.den with
  | ofNat n => simp only [hunits]; rfl
  | negSucc n => simp only [hunits]; rfl

/-- `Frac.log2` is the floor of the logarithm. -/
theorem Frac.log2_spec {x : Frac} (hnum : 0 < x.num) (hden : 0 < x.den) :
    (2 : ℚ) ^ x.log2 ≤ x.value ∧ x.value < 2 ^ (x.log2 + 1) := by
  have hnlow : (2 : ℚ) ^ Nat.log2 x.num ≤ x.num := by exact_mod_cast Nat.log2_self_le hnum.ne'
  have hnhigh : (x.num : ℚ) < 2 ^ (Nat.log2 x.num + 1) := by exact_mod_cast Nat.lt_log2_self
  have hdlow : (2 : ℚ) ^ Nat.log2 x.den ≤ x.den := by exact_mod_cast Nat.log2_self_le hden.ne'
  have hdhigh : (x.den : ℚ) < 2 ^ (Nat.log2 x.den + 1) := by exact_mod_cast Nat.lt_log2_self
  have hdpos : (0 : ℚ) < x.den := by exact_mod_cast hden
  have hlow : (2 : ℚ) ^ ((Nat.log2 x.num : ℤ) - Nat.log2 x.den - 1) ≤ x.value := by
    rw [Frac.value, le_div_iff₀ hdpos, sub_sub, zpow_sub₀ two_ne_zero, div_mul_eq_mul_div, div_le_iff₀ (by positivity)]
    exact mul_le_mul hnlow hdhigh.le hdpos.le (Nat.cast_nonneg _)
  have hhigh : x.value < (2 : ℚ) ^ ((Nat.log2 x.num : ℤ) - Nat.log2 x.den + 1) := by
    rw [Frac.value, div_lt_iff₀ hdpos, sub_add_eq_add_sub, zpow_sub₀ two_ne_zero, div_mul_eq_mul_div,
      lt_div_iff₀ (by positivity)]
    exact mul_lt_mul hnhigh hdlow (by positivity) (by positivity)
  rw [Frac.log2_eq hden]
  split
  · next h => exact ⟨h, hhigh⟩
  · next h => exact ⟨hlow, by simpa using not_le.mp h⟩

/-- In units of the last place a positive fraction is below `2^53`, and at least `2^52` unless the unit is the smallest. -/
theorem inUnits_ulpExponent_bounds {x : Frac} (hnum : 0 < x.num) (hden : 0 < x.den) :
    x.value / 2 ^ ulpExponent x < (2 : ℚ) ^ 53 ∧
      ((2 : ℚ) ^ 52 ≤ x.value / 2 ^ ulpExponent x ∨ ulpExponent x = -1074) := by
  obtain ⟨hlow, hhigh⟩ := Frac.log2_spec hnum hden
  have hunit : (0 : ℚ) < 2 ^ ulpExponent x := zpow_pos two_pos _
  constructor
  · rw [div_lt_iff₀ hunit, ← zpow_natCast, ← zpow_add₀ two_ne_zero]
    refine hhigh.trans_le (zpow_le_zpow_right₀ one_le_two ?_)
    unfold ulpExponent
    omega
  · by_cases hsub : ulpExponent x = -1074
    · exact .inr hsub
    · refine .inl ?_
      rw [le_div_iff₀ hunit, ← zpow_natCast, ← zpow_add₀ two_ne_zero]
      refine le_trans (zpow_le_zpow_right₀ one_le_two ?_) hlow
      unfold ulpExponent at hsub ⊢
      omega

/-! ### Rounding to an integer -/

/-- `q` is an integer nearest to `y`, the even one of two. -/
def RoundsTo (y : ℚ) (q : Nat) : Prop := |(q : ℚ) - y| ≤ 1 / 2 ∧ (|(q : ℚ) - y| = 1 / 2 → q % 2 = 0)

theorem roundsTo_of_lt {y : ℚ} {q : Nat} (h : |(q : ℚ) - y| < 1 / 2) : RoundsTo y q :=
  ⟨h.le, fun he => absurd he h.ne⟩

/-- A fraction is its floor and a part below 1, which the remainder compares with a half. -/
theorem Frac.value_eq_floor_add {x : Frac} (hden : 0 < x.den) :
    ∃ f : ℚ, x.value = (x.num / x.den : ℕ) + f ∧ 0 ≤ f ∧ f < 1 ∧
      (2 * (x.num % x.den) < x.den ↔ f < 1 / 2) ∧ (x.den < 2 * (x.num % x.den) ↔ 1 / 2 < f) := by
  have hdpos : (0 : ℚ) < x.den := by exact_mod_cast hden
  have hsplit : (x.num : ℚ) = x.den * (x.num / x.den : ℕ) + (x.num % x.den : ℕ) := by
    exact_mod_cast (Nat.div_add_mod x.num x.den).symm
  refine ⟨(x.num % x.den : ℕ) / x.den, ?_, by positivity, ?_, ?_, ?_⟩
  · rw [Frac.value, ← mul_div_cancel_left₀ ((x.num / x.den : ℕ) : ℚ) hdpos.ne', ← add_div, ← hsplit]
  · rw [div_lt_one hdpos]
    exact_mod_cast Nat.mod_lt x.num hden
  · rw [div_lt_iff₀ hdpos, ← Nat.cast_lt (α := ℚ), Nat.cast_mul, Nat.cast_ofNat]
    constructor <;> intro h <;> linarith
  · rw [lt_div_iff₀ hdpos, ← Nat.cast_lt (α := ℚ), Nat.cast_mul, Nat.cast_ofNat]
    constructor <;> intro h <;> linarith

/-- `Frac.roundEven` decides by the remainder against half the denominator. -/
theorem roundEven_roundsTo {x : Frac} (hden : 0 < x.den) : RoundsTo x.value x.roundEven := by
  obtain ⟨f, hvalue, hnonneg, hlt, hbelow, habove⟩ := Frac.value_eq_floor_add hden
  unfold Frac.roundEven
  simp only [hbelow, habove, hvalue]
  by_cases hlow : f < 1 / 2
  · rw [if_pos hlow]
    refine roundsTo_of_lt ?_
    rw [abs_lt]
    constructor <;> linarith
  · by_cases hhigh : 1 / 2 < f
    · rw [if_neg hlow, if_pos hhigh]
      refine roundsTo_of_lt ?_
      rw [abs_lt]
      push_cast
      constructor <;> linarith
    · obtain rfl : f = 1 / 2 := le_antisymm (not_lt.mp hhigh) (not_lt.mp hlow)
      rw [if_neg hlow, if_neg hhigh]
      have hhalf : |(x.num / x.den : ℕ) - ((x.num / x.den : ℕ) + 1 / 2 : ℚ)| = 1 / 2 := by
        rw [sub_add_cancel_left, abs_neg, abs_of_pos (by norm_num)]
      have hhalf' : |((x.num / x.den + 1 : ℕ) : ℚ) - ((x.num / x.den : ℕ) + 1 / 2 : ℚ)| = 1 / 2 := by
        push_cast
        rw [add_sub_add_left_eq_sub]
        norm_num
      split
      · next heven => exact ⟨hhalf.le, fun _ => heven⟩
      · next hodd => exact ⟨hhalf'.le, fun _ => by omega⟩

/-- A rounding to an integer is a nearest integer, and the even one of two as near. -/
theorem RoundsTo.nearest {y : ℚ} {q : Nat} (h : RoundsTo y q) (j : Nat) :
    |(q : ℚ) - y| ≤ |(j : ℚ) - y| ∧ (|(q : ℚ) - y| = |(j : ℚ) - y| → j = q ∨ q % 2 = 0) := by
  obtain ⟨hhalf, heven⟩ := h
  by_cases hj : j = q
  · subst hj
    exact ⟨le_rfl, fun _ => .inl rfl⟩
  · have hgap : 1 ≤ |(q : ℚ) - y| + |(j : ℚ) - y| := by
      have hint : (1 : ℚ) ≤ |(q : ℚ) - j| := by
        have : (1 : ℤ) ≤ |(q : ℤ) - j| := Int.one_le_abs (by omega)
        exact_mod_cast this
      calc (1 : ℚ) ≤ |(q : ℚ) - j| := hint
        _ ≤ |(q : ℚ) - y| + |y - j| := abs_sub_le _ _ _
        _ = |(q : ℚ) - y| + |(j : ℚ) - y| := by rw [abs_sub_comm y]
    exact ⟨by linarith, fun heq => .inr (heven (by linarith))⟩

end Sys2Proof.Machine

/-! PROOFS. Rounding to binary64 (00_scope.md R12). A fraction rounded to an integer in units of the last place is a
nearest finite datum, because data at lower exponents lie below the binade and those at higher ones are integers in the
same units; a nearest datum, the even one of two, is the only one. From this the two conversions in BINARY64 mode
(40_builder.md R101, R102) and the assembler's literals (30_encoding.md R88). -/

namespace Sys2Proof.Machine

/-! ### The finite data in order -/

/-- A finite datum at a higher exponent is larger. -/
theorem finiteDatum_lt_of_exp_lt {m m' : Nat} {e e' : Int} (h : finiteDatum m e) (h' : finiteDatum m' e')
    (hlt : e < e') : (m : ℚ) * 2 ^ e < m' * 2 ^ e' := by
  obtain ⟨hm, he, -, -⟩ := h
  obtain ⟨-, -, -, hm' | hsub⟩ := h'
  · have hm : (m : ℚ) < 2 ^ 53 := by exact_mod_cast hm
    have hm' : (2 : ℚ) ^ 52 ≤ m' := by exact_mod_cast hm'
    have hunit : (0 : ℚ) < 2 ^ e := zpow_pos two_pos e
    calc (m : ℚ) * 2 ^ e < 2 ^ 53 * 2 ^ e := mul_lt_mul_of_pos_right hm hunit
      _ = 2 ^ 52 * 2 ^ (e + 1) := by rw [zpow_add_one₀ two_ne_zero]; ring
      _ ≤ m' * 2 ^ e' := mul_le_mul hm' (zpow_le_zpow_right₀ one_le_two hlt) (by positivity) (by positivity)
  · omega

/-- Two finite data of one value are the same. -/
theorem finiteDatum_injective {m m' : Nat} {e e' : Int} (h : finiteDatum m e) (h' : finiteDatum m' e')
    (hvalue : (m : ℚ) * 2 ^ e = m' * 2 ^ e') : m = m' ∧ e = e' := by
  obtain hlt | rfl | hlt := lt_trichotomy e e'
  · exact absurd hvalue (finiteDatum_lt_of_exp_lt h h' hlt).ne
  · exact ⟨by exact_mod_cast mul_right_cancel₀ (zpow_pos two_pos e).ne' hvalue, rfl⟩
  · exact absurd hvalue (finiteDatum_lt_of_exp_lt h' h hlt).ne'

/-- In larger units a finite datum is below the binade. -/
theorem finiteDatum_units_lt {m : Nat} {e E : Int} (h : finiteDatum m e) (hlt : e < E) :
    (m : ℚ) * 2 ^ e / 2 ^ E < 2 ^ 52 := by
  obtain ⟨hm, -⟩ := h
  have hm : (m : ℚ) < 2 ^ 53 := by exact_mod_cast hm
  rw [div_lt_iff₀ (zpow_pos two_pos E)]
  calc (m : ℚ) * 2 ^ e < 2 ^ 53 * 2 ^ e := mul_lt_mul_of_pos_right hm (zpow_pos two_pos e)
    _ = 2 ^ 52 * 2 ^ (e + 1) := by rw [zpow_add_one₀ two_ne_zero]; ring
    _ ≤ 2 ^ 52 * 2 ^ E := mul_le_mul_of_nonneg_left (zpow_le_zpow_right₀ one_le_two hlt) (by positivity)

/-- In smaller units a number `m * 2^e` is a multiple of `m`, an even one of an even `m`. -/
theorem units_eq_natCast (m : Nat) {e E : Int} (hle : E ≤ e) :
    ∃ j : Nat, (m : ℚ) * 2 ^ e / 2 ^ E = j ∧ m ∣ j := by
  obtain ⟨k, rfl⟩ := Int.le.dest hle
  refine ⟨m * 2 ^ k, ?_, Dvd.intro _ rfl⟩
  rw [zpow_add₀ two_ne_zero, zpow_natCast, mul_div_assoc, mul_div_cancel_left₀ _ (zpow_pos two_pos E).ne']
  push_cast
  rfl

/-- A distance in units. -/
theorem abs_sub_eq_units (v x : ℚ) (E : Int) : |v - x| = 2 ^ E * |v / 2 ^ E - x / 2 ^ E| := by
  have hunit : (0 : ℚ) < 2 ^ E := zpow_pos two_pos E
  rw [← sub_div, abs_div, abs_of_pos hunit, mul_div_cancel₀ _ hunit.ne']

/-! ### A rounded fraction is a nearest datum -/

section
variable {x : ℚ} {q : Nat} {E : Int} (hround : RoundsTo (x / 2 ^ E) q) (hbinade : (2 : ℚ) ^ 52 ≤ x / 2 ^ E ∨ E = -1074)
include hround hbinade

/-- In units: an integer is no nearer than `q`, and what is below the binade is farther than `2^52`. -/
theorem roundsTo_nearest_datum {m : Nat} {e : Int} (hdatum : finiteDatum m e) :
    |(q : ℚ) * 2 ^ E - x| ≤ |(m : ℚ) * 2 ^ e - x| ∧
      (|(q : ℚ) * 2 ^ E - x| = |(m : ℚ) * 2 ^ e - x| → (m : ℚ) * 2 ^ e = q * 2 ^ E ∨ q % 2 = 0) := by
  have hunit : (0 : ℚ) < 2 ^ E := zpow_pos two_pos E
  rw [abs_sub_eq_units _ x E, abs_sub_eq_units ((m : ℚ) * 2 ^ e) x E, mul_div_cancel_right₀ _ hunit.ne',
    mul_le_mul_iff_right₀ hunit, mul_right_inj' hunit.ne']
  by_cases hle : E ≤ e
  · obtain ⟨j, hj, -⟩ := units_eq_natCast m hle
    obtain ⟨hnear, htie⟩ := hround.nearest j
    rw [hj]
    refine ⟨hnear, fun heq => (htie heq).imp (fun hjq => ?_) id⟩
    rw [← div_eq_iff hunit.ne', hj, hjq]
  · have hlt := not_le.mp hle
    have hbelow := finiteDatum_units_lt hdatum hlt
    obtain ⟨-, hmin, -⟩ := hdatum
    have hlow : (2 : ℚ) ^ 52 ≤ x / 2 ^ E := hbinade.resolve_right (by omega)
    obtain ⟨hnear, -⟩ := hround.nearest (2 ^ 52)
    have hfar : |(q : ℚ) - x / 2 ^ E| < |(m : ℚ) * 2 ^ e / 2 ^ E - x / 2 ^ E| := by
      refine hnear.trans_lt ?_
      push_cast
      rw [abs_of_nonpos (by linarith), abs_of_nonpos (by linarith)]
      linarith
    exact ⟨hfar.le, fun heq => absurd heq hfar.ne⟩

theorem nearestEven_of_roundsTo {m : Nat} {e : Int} (hdatum : finiteDatum m e) (hvalue : (m : ℚ) * 2 ^ e = q * 2 ^ E)
    (heven : q % 2 = 0 → m % 2 = 0) : nearestEven x m e := by
  refine ⟨hdatum, fun m' e' hdatum' => ?_⟩
  obtain ⟨hnear, htie⟩ := roundsTo_nearest_datum hround hbinade hdatum'
  simp only [finiteValue_false, hvalue]
  exact ⟨hnear, fun heq =>
    (htie heq).imp (fun hsame => finiteDatum_injective hdatum' hdatum (hsame.trans hvalue.symm)) heven⟩

end

/-! ### Overflow -/

/-- A rounded mantissa that does not fit below the largest exponent. -/
def overflows (q : Nat) (E : Int) : Prop := 971 < E ∨ (E = 971 ∧ q = 2 ^ 53)

theorem normalDatum_of_overflows (neg : Bool) {q : Nat} {E : Int} (h : overflows q E) :
    normalDatum neg q E = .infinity neg := by
  unfold overflows at h
  unfold normalDatum
  split
  · exact if_pos (by omega)
  · exact if_pos (by omega)

/-- A rounded mantissa that fits: `2^53` is the next power of two. -/
theorem normalDatum_of_not_overflows (neg : Bool) {q : Nat} {E : Int} (h : ¬overflows q E) (hq : q ≤ 2 ^ 53)
    (hbinade : 2 ^ 52 ≤ q ∨ E = -1074) (hE : -1074 ≤ E) :
    ∃ m e, normalDatum neg q E = .finite neg m e ∧ finiteDatum m e ∧ (m : ℚ) * 2 ^ e = q * 2 ^ E ∧
      (q % 2 = 0 → m % 2 = 0) := by
  unfold overflows at h
  unfold normalDatum finiteDatum
  by_cases hcarry : q = 2 ^ 53
  · refine ⟨2 ^ 52, E + 1, ?_, by omega, ?_, fun _ => rfl⟩
    · simp only [hcarry, if_true]
      exact if_neg (by omega)
    · rw [hcarry, zpow_add_one₀ two_ne_zero]
      push_cast
      ring
  · refine ⟨q, E, ?_, by omega, rfl, id⟩
    simp only [hcarry, if_false]
    exact if_neg (by omega)

/-- Half a unit above the largest finite datum, in units of its last place. -/
theorem overflowBound_eq : ((2 : ℚ) ^ 54 - 1) * 2 ^ 970 = (2 ^ 53 - 1 / 2) * 2 ^ (971 : ℤ) := by
  have hunit : (2 : ℚ) ^ (971 : ℤ) = 2 ^ 970 * 2 := by
    rw [show (971 : ℤ) = 970 + 1 by rfl, zpow_add_one₀ two_ne_zero, zpow_ofNat]
  rw [hunit]
  generalize (2 : ℚ) ^ 970 = b
  ring

section
variable {x : ℚ} {q : Nat} {E : Int} (hround : RoundsTo (x / 2 ^ E) q) (hbelow : x / 2 ^ E < (2 : ℚ) ^ 53)
  (hbinade : (2 : ℚ) ^ 52 ≤ x / 2 ^ E ∨ E = -1074)
include hround

/-- Just below `2^53` the tie at `2^53 - 1/2` goes to the even `2^53`. -/
theorem roundsTo_carry_iff (hbelow : x / 2 ^ E < (2 : ℚ) ^ 53) : q = 2 ^ 53 ↔ (2 : ℚ) ^ 53 - 1 / 2 ≤ x / 2 ^ E := by
  obtain ⟨hhalf, htie⟩ := hround
  obtain ⟨hlow, hhigh⟩ := abs_le.mp hhalf
  constructor
  · rintro rfl
    push_cast at hhigh
    linarith
  · intro hle
    have hupper : q < 2 ^ 53 + 1 := by
      have : (q : ℚ) < 2 ^ 53 + 1 := by linarith
      exact_mod_cast this
    have hlower : 2 ^ 53 - 1 ≤ q := by
      have : (2 : ℚ) ^ 53 ≤ q + 1 := by linarith
      have : 2 ^ 53 ≤ q + 1 := by exact_mod_cast this
      omega
    by_contra hne
    obtain rfl : q = 2 ^ 53 - 1 := by omega
    have hodd : |((2 ^ 53 - 1 : ℕ) : ℚ) - x / 2 ^ E| = 1 / 2 := by
      refine le_antisymm hhalf ?_
      rw [abs_sub_comm]
      refine le_trans ?_ (le_abs_self _)
      norm_num at hle ⊢
      linarith
    exact absurd (htie hodd) (by decide)

include hbelow hbinade

theorem overflows_iff : overflows q E ↔ ((2 : ℚ) ^ 54 - 1) * 2 ^ 970 ≤ x := by
  have hunit (e : ℤ) : (0 : ℚ) < 2 ^ e := zpow_pos two_pos e
  unfold overflows
  rw [overflowBound_eq]
  obtain hlt | rfl | hgt := lt_trichotomy E 971
  · refine iff_of_false (by omega) (not_le.mpr ?_)
    calc x < 2 ^ 53 * 2 ^ E := (div_lt_iff₀ (hunit E)).mp hbelow
      _ ≤ 2 ^ 53 * 2 ^ (970 : ℤ) :=
        mul_le_mul_of_nonneg_left (zpow_le_zpow_right₀ one_le_two (by omega)) (by positivity)
      _ = 2 ^ 52 * 2 ^ (971 : ℤ) := by
        rw [show (971 : ℤ) = 970 + 1 by rfl, zpow_add_one₀ two_ne_zero]
        generalize (2 : ℚ) ^ (970 : ℤ) = b
        ring
      _ ≤ (2 ^ 53 - 1 / 2) * 2 ^ (971 : ℤ) := mul_le_mul_of_nonneg_right (by norm_num) (hunit 971).le
  · rw [← le_div_iff₀ (hunit 971), ← roundsTo_carry_iff hround hbelow]
    omega
  · refine iff_of_true (.inl hgt) ?_
    have hlow : (2 : ℚ) ^ 52 ≤ x / 2 ^ E := hbinade.resolve_right (by omega)
    calc (2 ^ 53 - 1 / 2) * (2 : ℚ) ^ (971 : ℤ) ≤ 2 ^ 53 * 2 ^ (971 : ℤ) :=
        mul_le_mul_of_nonneg_right (by norm_num) (hunit 971).le
      _ = 2 ^ 52 * 2 ^ (972 : ℤ) := by
        rw [show (972 : ℤ) = 971 + 1 by rfl, zpow_add_one₀ two_ne_zero]
        generalize (2 : ℚ) ^ (971 : ℤ) = b
        ring
      _ ≤ 2 ^ 52 * 2 ^ E := mul_le_mul_of_nonneg_left (zpow_le_zpow_right₀ one_le_two (by omega)) (by positivity)
      _ ≤ x := (le_div_iff₀ (hunit E)).mp hlow

end

/-! ### RNE64 -/

theorem nearestEven_zero : nearestEven 0 0 (-1074) := by
  refine nearestEven_of_roundsTo (q := 0) (E := -1074) ?_ (.inr rfl) (by unfold finiteDatum; omega) rfl id
  exact roundsTo_of_lt (by norm_num)

/-- Everything `RNE64` gives, with either sign. -/
theorem rneSigned_cases (neg : Bool) {x : Frac} (hden : 0 < x.den) :
    (x.value < (2 ^ 54 - 1) * 2 ^ 970 ∧ ∃ m e, rneSigned neg x = .finite neg m e ∧ nearestEven x.value m e) ∨
    ((2 ^ 54 - 1) * 2 ^ 970 ≤ x.value ∧ rneSigned neg x = .infinity neg) := by
  unfold rneSigned
  by_cases hnum : x.num = 0
  · have hvalue : x.value = 0 := by rw [Frac.value, hnum, Nat.cast_zero, zero_div]
    rw [if_pos hnum, hvalue, overflowBound_eq]
    exact .inl ⟨mul_pos (by norm_num) (zpow_pos two_pos _), 0, -1074, rfl, nearestEven_zero⟩
  · rw [if_neg hnum]
    obtain ⟨hbelow, hbinade⟩ := inUnits_ulpExponent_bounds (Nat.pos_of_ne_zero hnum) hden
    have hround := roundEven_roundsTo (Frac.inUnits_den_pos hden (ulpExponent x))
    rw [Frac.inUnits_value] at hround
    generalize (x.inUnits (ulpExponent x)).roundEven = q at hround ⊢
    have hE : -1074 ≤ ulpExponent x := Int.le_max_right _ _
    generalize ulpExponent x = E at hround hbelow hbinade hE ⊢
    have hoverflows := overflows_iff hround hbelow hbinade
    by_cases hover : overflows q E
    · exact .inr ⟨hoverflows.mp hover, normalDatum_of_overflows neg hover⟩
    · obtain ⟨hlow, hhigh⟩ := abs_le.mp hround.1
      have hq : q ≤ 2 ^ 53 := by
        have : (q : ℚ) < 2 ^ 53 + 1 := by linarith
        exact Nat.lt_succ_iff.mp (by exact_mod_cast this)
      have hq' : 2 ^ 52 ≤ q ∨ E = -1074 := hbinade.imp_left fun hle => by
        have : (2 : ℚ) ^ 52 < q + 1 := by linarith
        exact Nat.lt_succ_iff.mp (by exact_mod_cast this)
      obtain ⟨m, e, hdatum, hfinite, hvalue, heven⟩ := normalDatum_of_not_overflows neg hover hq hq' hE
      exact .inl ⟨not_le.mp (mt hoverflows.mpr hover), m, e, hdatum,
        nearestEven_of_roundsTo hround hbinade hfinite hvalue heven⟩

/-- Settles O24: `RNE64` of a fraction with the positive sign. -/
theorem roundingIsToNearestEven : Obligations.RoundingIsToNearestEven := fun _ hden => rneSigned_cases false hden

/-! ### A nearest datum is the only one -/

/-- Two even multiples, of one unit and of one at least as large, are two units apart. -/
theorem add_two_units_le {m m' : Nat} {e e' : Int} (hexp : e ≤ e') (heven : m % 2 = 0) (heven' : m' % 2 = 0)
    (hlt : (m : ℚ) * 2 ^ e < m' * 2 ^ e') : (m : ℚ) * 2 ^ e + 2 * 2 ^ e ≤ m' * 2 ^ e' := by
  have hunit : (0 : ℚ) < 2 ^ e := zpow_pos two_pos e
  obtain ⟨j, hj, hdvd⟩ := units_eq_natCast m' hexp
  rw [div_eq_iff hunit.ne'] at hj
  rw [hj] at hlt ⊢
  have hmj : m < j := by exact_mod_cast lt_of_mul_lt_mul_right hlt hunit.le
  have hjeven : j % 2 = 0 := Nat.mod_eq_zero_of_dvd ((Nat.dvd_of_mod_eq_zero heven').trans hdvd)
  rw [← add_mul]
  exact mul_le_mul_of_nonneg_right (by exact_mod_cast (by omega : m + 2 ≤ j)) hunit.le

/-- Of two different data that are both nearest and even the next datum after the lower one would be nearer. -/
theorem nearestEven_not_lt {x : ℚ} {m m' : Nat} {e e' : Int} (h : nearestEven x m e) (h' : nearestEven x m' e') :
    ¬(m : ℚ) * 2 ^ e < m' * 2 ^ e' := by
  intro hlt
  obtain ⟨hdatum, hnear⟩ := h
  obtain ⟨hdatum', hnear'⟩ := h'
  simp only [finiteValue_false] at hnear hnear'
  obtain ⟨hle, htie⟩ := hnear m' e' hdatum'
  obtain ⟨hle', htie'⟩ := hnear' m e hdatum
  have hdist := le_antisymm hle hle'
  have hother : ¬(m' = m ∧ e' = e) := by
    rintro ⟨rfl, rfl⟩
    exact lt_irrefl _ hlt
  have heven : m % 2 = 0 := (htie hdist).resolve_left hother
  have heven' : m' % 2 = 0 := (htie' hdist.symm).resolve_left fun hsame => hother ⟨hsame.1.symm, hsame.2.symm⟩
  have hunit : (0 : ℚ) < 2 ^ e := zpow_pos two_pos e
  have hexp : e ≤ e' := not_lt.mp fun hexp => lt_asymm hlt (finiteDatum_lt_of_exp_lt hdatum' hdatum hexp)
  have hnext := add_two_units_le hexp heven heven' hlt
  have hbetween : finiteDatum (m + 1) e := by
    unfold finiteDatum at hdatum ⊢
    omega
  obtain ⟨hcloser, -⟩ := hnear (m + 1) e hbetween
  push_cast at hcloser
  have hmid : x - m * 2 ^ e = m' * 2 ^ e' - x := by
    obtain heq | heq := abs_eq_abs.mp hdist
    · linarith
    · linarith
  rw [abs_of_nonpos (by linarith : (m : ℚ) * 2 ^ e - x ≤ 0), abs_of_nonpos (by linarith)] at hcloser
  linarith

/-- Nearest data to one number have one value. -/
theorem nearestEven_unique {x : ℚ} {m m' : Nat} {e e' : Int} (h : nearestEven x m e) (h' : nearestEven x m' e') :
    finiteValue false m e = finiteValue false m' e' := by
  simpa using le_antisymm (not_lt.mp (nearestEven_not_lt h' h)) (not_lt.mp (nearestEven_not_lt h h'))

/-- A nearest datum to a number that overflows is beyond every length and divisor. -/
theorem two_pow_le_of_nearestEven {x : ℚ} {m : Nat} {e : Int} (hx : (2 ^ 54 - 1) * 2 ^ 970 ≤ x)
    (h : nearestEven x m e) : (2 : ℚ) ^ 64 ≤ finiteValue false m e := by
  obtain ⟨-, hnear⟩ := h
  obtain ⟨hle, -⟩ := hnear (2 ^ 52) 971 (by unfold finiteDatum; omega)
  rw [overflowBound_eq] at hx
  have hunit : (2 : ℚ) ^ (64 : ℤ) ≤ 2 ^ (971 : ℤ) := zpow_le_zpow_right₀ one_le_two (by norm_num)
  rw [zpow_ofNat] at hunit
  rw [finiteValue_false (2 ^ 52), Nat.cast_pow, Nat.cast_ofNat] at hle
  generalize (2 : ℚ) ^ (971 : ℤ) = b at hx hunit hle
  rw [abs_sub_comm, abs_sub_comm (2 ^ 52 * b), abs_of_nonneg (by linarith : 0 ≤ x - 2 ^ 52 * b)] at hle
  have := le_abs_self (x - finiteValue false m e)
  linarith

/-- The floor after a rounding, for results in range. -/
theorem floorFinite_rne64_iff {x : Frac} (hden : 0 < x.den) {n : Nat} (hn : n < 2 ^ 64) :
    floorFinite (rne64 x) = some n ↔ ∃ m e, nearestEven x.value m e ∧ ⌊finiteValue false m e⌋ = n := by
  have hfloor (m : Nat) (e : Int) : ((scaled m e).floor : ℤ) = ⌊finiteValue false m e⌋ := by
    rw [Frac.floor_eq, scaled_value, finiteValue_false]
  unfold rne64
  obtain ⟨-, m, e, hround, hnear⟩ | ⟨hover, hround⟩ := rneSigned_cases false hden
  · rw [hround, floorFinite, Option.some.injEq, ← Int.natCast_inj, hfloor]
    constructor
    · exact fun h => ⟨m, e, hnear, h⟩
    · rintro ⟨m', e', hnear', h⟩
      rw [nearestEven_unique hnear hnear', h]
  · rw [hround]
    refine iff_of_false (fun h => nomatch h) ?_
    rintro ⟨m, e, hnear, h⟩
    have hlarge := two_pow_le_of_nearestEven hover hnear
    have hlt := Int.lt_floor_add_one (finiteValue false m e)
    rw [h] at hlt
    have hn : (n : ℚ) + 1 ≤ 2 ^ 64 := by exact_mod_cast hn
    push_cast at hlt
    linarith

/-! ### BINARY64 mode -/

theorem lengthInRange_eq_some_iff (k n : Nat) : lengthInRange k = some n ↔ k = n ∧ n ≤ 2 ^ 32 - 1 := by
  unfold lengthInRange lenMax
  split
  · next hk => simp; omega
  · next hk => simp; omega

theorem divisorInRange_eq_some_iff (k d : Nat) : divisorInRange k = some d ↔ k = d ∧ 1 ≤ d ∧ d ≤ 2 ^ 63 - 1 := by
  unfold divisorInRange divMax
  split
  · next hk => simp; omega
  · next hk => simp; omega

theorem Frac.num_pos_of_value_pos {x : Frac} (h : 0 < x.value) : 0 < x.num := by
  refine Nat.pos_of_ne_zero fun hzero => ?_
  rw [Frac.value, hzero, Nat.cast_zero, zero_div] at h
  exact lt_irrefl _ h

/-- Settles O26: the one rounding, its floor, and the check of 1..DIV_MAX, which excludes an infinite quotient. -/
theorem binary64DivisorRoundsOnce : Obligations.Binary64DivisorRoundsOnce := by
  intro w d
  obtain ⟨hinvalid, h⟩ | ⟨hfinite, hpos, m, e, hreal, h⟩ := freqToDivisor_cases .binary64 w
  · rw [h]
    refine iff_of_false (fun h => nomatch h) ?_
    rintro ⟨hfinite, hpos, -⟩
    exact hinvalid.elim hfinite hpos.not_ge
  · have hden : 0 < (Frac.under halfRate (scaled m e)).den := Frac.num_pos_of_value_pos (hreal ▸ hpos)
    have hquotient : (Frac.under halfRate (scaled m e)).value = 48000 / b64real w := by
      rw [Frac.under_value, hreal]
      rfl
    rw [h, Option.bind_eq_some_iff]
    simp only [frequencyDivisor, divisorInRange_eq_some_iff, hfinite, hpos, ne_eq, not_false_eq_true, true_and,
      ← hquotient]
    constructor
    · rintro ⟨_, hfloor, rfl, hlow, hhigh⟩
      exact ⟨hlow, hhigh, (floorFinite_rne64_iff hden (by omega)).mp hfloor⟩
    · rintro ⟨hlow, hhigh, hnear⟩
      exact ⟨d, (floorFinite_rne64_iff hden (by omega)).mpr hnear, rfl, hlow, hhigh⟩

/-- A finite datum divided by 1000 is far from overflow. -/
theorem rne64_over_finite {m : Nat} {e : Int} (hdatum : finiteDatum m e) :
    ∃ m' e', rne64 ((scaled m e).over msPerSecond) = .finite false m' e' ∧
      nearestEven ((scaled m e).value / 1000) m' e' := by
  have hden : 0 < ((scaled m e).over msPerSecond).den := Nat.mul_pos (scaled_den_pos m e) (by decide)
  have hvalue : ((scaled m e).over msPerSecond).value = (scaled m e).value / 1000 := Frac.over_value _ _
  obtain ⟨-, m', e', hround, hnear⟩ | ⟨hover, -⟩ := rneSigned_cases false hden
  · exact ⟨m', e', hround, hvalue ▸ hnear⟩
  · refine absurd hover (not_le.mpr ?_)
    obtain ⟨hm, -, he, -⟩ := hdatum
    have hm : (m : ℚ) ≤ 2 ^ 53 := by exact_mod_cast hm.le
    have hsize : (m : ℚ) * 2 ^ e ≤ 2 ^ 53 * 2 ^ (971 : ℤ) :=
      mul_le_mul hm (zpow_le_zpow_right₀ one_le_two he) (by positivity) (by positivity)
    have hunit : (0 : ℚ) < 2 ^ (971 : ℤ) := zpow_pos two_pos _
    rw [hvalue, scaled_value, overflowBound_eq]
    generalize (2 : ℚ) ^ (971 : ℤ) = b at hsize hunit ⊢
    linarith

/-- Settles O25: the first rounding is finite, the second is followed by its floor and the check against LEN_MAX, which
excludes an infinite product. -/
theorem binary64DurationRoundsTwice : Obligations.Binary64DurationRoundsTwice := by
  intro w n
  obtain ⟨hinvalid, h⟩ | ⟨hfinite, m, e, hdatum, hreal, h⟩ := msToSamples_cases .binary64 w
  · rw [h]
    refine iff_of_false (fun h => nomatch h) ?_
    rintro ⟨hfinite, hnonneg, -⟩
    exact hinvalid.elim hfinite hnonneg.not_gt
  · obtain ⟨m1, e1, hround, hnear⟩ := rne64_over_finite hdatum
    have hden : 0 < ((scaled m1 e1).times sampleRate).den := scaled_den_pos m1 e1
    have hproduct : ((scaled m1 e1).times sampleRate).value = finiteValue false m1 e1 * 96000 := by
      rw [Frac.times_value, scaled_value, finiteValue_false]
      rfl
    have hnonneg : 0 ≤ b64real w := hreal ▸ Frac.value_nonneg _
    rw [← hreal] at hnear
    rw [h, Option.bind_eq_some_iff]
    simp only [durationSamples, hround, timesRounded, lengthInRange_eq_some_iff, hfinite, hnonneg, ne_eq,
      not_false_eq_true, true_and]
    constructor
    · rintro ⟨_, hfloor, rfl, hmax⟩
      obtain ⟨m2, e2, hnear2, hn⟩ := (floorFinite_rne64_iff hden (by omega)).mp hfloor
      exact ⟨hmax, m1, e1, m2, e2, hnear, hproduct ▸ hnear2, hn⟩
    · rintro ⟨hmax, m1', e1', m2, e2, hnear1, hnear2, hn⟩
      rw [← nearestEven_unique hnear hnear1, ← hproduct] at hnear2
      exact ⟨n, (floorFinite_rne64_iff hden (by omega)).mpr ⟨m2, e2, hnear2, hn⟩, rfl, hmax⟩

/-! ### The assembler's literals -/

theorem Decimal.size_value (x : Decimal) : x.size.value = (x.digits : ℚ) * (10 : ℚ) ^ x.exp10 := by
  unfold Decimal.size Frac.value
  cases x.exp10 with
  | ofNat k => simp
  | negSucc k => simp [zpow_negSucc, div_eq_mul_inv]

theorem Decimal.size_den_pos (x : Decimal) : 0 < x.size.den := by
  unfold Decimal.size
  cases x.exp10 with
  | ofNat k => exact Nat.one_pos
  | negSucc k => exact Nat.pow_pos (by decide)

/-- Settles O60: the decoder's branches for the three lines, and the pattern of the rounded literal read back. -/
theorem assembledLiteralsAreNearestData : Obligations.AssembledLiteralsAreNearestData := by
  refine ⟨fun f ms => ⟨_, rfl, decodeCommand_addToneFreq _ _⟩, fun ms => ⟨_, rfl, decodeCommand_addSilence _⟩,
    ⟨_, rfl, decodeCommand_write⟩, fun x => ?_⟩
  rw [← x.size_value, binary64]
  obtain ⟨hlow, m, e, hround, hnear⟩ | ⟨hhigh, hround⟩ := rneSigned_cases x.neg x.size_den_pos
  · exact .inl ⟨hlow, m, e, by rw [hround, b64val_b64bits_finite _ _ _ hnear.1], hnear⟩
  · exact .inr ⟨hhigh, by rw [hround, b64val_b64bits_infinity]⟩

end Sys2Proof.Machine
